-- ==== Sys2Proof/Word.lean ====
section
/-! DEFINITION. The words of the LC3140: ticks, characters, station, channel and group numbers. -/

namespace Sys2Proof

/-- A character of the cue line or of the local port (R128, R207). -/
abbrev Byte := BitVec 8

/-- A 48-bit count of ticks: local time, shared time, an offset (R1, R2). -/
abbrev Time := BitVec 48

/-- A station number 0..31 (00_scope.md, Numbering). -/
abbrev StationNo := BitVec 5

/-- A channel number 0..7. -/
abbrev ChannelNo := BitVec 3

/-- A group number 0..7. -/
abbrev GroupNo := BitVec 3

/-- A set of groups: bit g is set when group g belongs to it (R131). -/
abbrev GroupSet := BitVec 8

/-- A 16-bit saturating counter or a 16-bit figure. -/
abbrev Count16 := BitVec 16

end Sys2Proof
end

