-- ==== Sys2Proof/Syntax.lean ====
section
/-! DEFINITION. The commands of the LC3140: one constructor of Instr per row of spec/opcode_table.json,
with the operands the event carries. -/

namespace Sys2Proof

/-- The orders R7, R22 and R64 leave open inside one period expiry (log 4). -/
structure ExpiryOrder where
  /-- the BEAT is made due, and the frame of this tick is built, before the sweep and the evaluation (R7, log 31) -/
  beatFirst : Bool
  /-- the roster sweep is taken before the agreement evaluation (R7) -/
  sweepFirst : Bool
  /-- a TIMEBASE_CHANGE report is queued before the reports the jump's notice causes (R22, R45, R63) -/
  changeFirst : Bool
  /-- bit c: channel c takes the jump notice before the cue table's firings (R64) -/
  noticeFirst : BitVec 8
  deriving DecidableEq, Repr

/-- A character as the receiver delivers it (R180). -/
structure RxChar where
  value : Byte
  noisy : Bool
  framing : Bool
  /-- the tick its start edge was first sampled -/
  startTick : Time
  /-- the tick its stop bit ends -/
  endTick : Time
  deriving DecidableEq, Repr

/-- A character read back during the own transmission, with its two flags (R184). -/
structure ReadBack where
  value : Byte
  noisy : Bool
  framing : Bool
  deriving DecidableEq, Repr

/-- A command: one event of the part, from the local controller, the line, a pin or the clock. -/
inductive Instr where
  /-- RESET (R190): power-on or pin reset, with the levels the straps show when it ends. -/
  | reset (stn : BitVec 5) (rate : BitVec 2)
  /-- EXCHANGE_BEGIN (R207): LCS falls. -/
  | exchangeBegin
  /-- NO_REQUEST (R208): LCS rises with nothing clocked in. -/
  | noRequest
  /-- SHORT (R208): LCS rises with too few characters, or with a partial one of some bits. -/
  | short (clocked : List Byte) (partialBits : Nat)
  /-- NOP (R210). -/
  | nop (body : List Byte)
  /-- CONFIGURE (R192), with the characters of its body. -/
  | configure (body : List Byte)
  /-- OPEN (R195). -/
  | openLine (body : List Byte)
  /-- CLOSE (R200). -/
  | close (body : List Byte)
  /-- UNMUTE (R199). -/
  | unmute (body : List Byte)
  /-- RESTART (R191). -/
  | restart (body : List Byte)
  /-- POST (R104), with the characters of its body. -/
  | post (body : List Byte)
  /-- WITHDRAW (R105), with the characters of its body. -/
  | withdraw (body : List Byte)
  /-- FETCH (R214). -/
  | fetch (body : List Byte)
  /-- STATUS (R215). -/
  | status (body : List Byte)
  /-- STAMP (R24). -/
  | stamp (body : List Byte)
  /-- ROSTER (R100). -/
  | roster (body : List Byte)
  /-- SLEW_STEP (R3). -/
  | slewStep
  /-- PERIOD_EXPIRY (R6). -/
  | periodExpiry (order : ExpiryOrder)
  /-- LISTEN_END (R196). -/
  | listenEnd
  /-- LINGER_EXPIRY (R217). -/
  | lingerExpiry
  /-- RESPONSE_WINDOW_EXPIRY (R114) of the posting with this id. -/
  | responseWindowExpiry (id : Byte)
  /-- DEADLINE_PASSED (R111, R114) of the posting with this id. -/
  | deadlinePassed (id : Byte)
  /-- HEAD_DUE (R42). -/
  | headDue
  /-- EDGE_REACHED (R60) on this channel. -/
  | edgeReached (channel : ChannelNo)
  /-- INPUT_EDGE (R71): the majority of the channel's samples has become this level. -/
  | inputEdge (channel : ChannelNo) (level : Bool)
  /-- START_EDGE (R177, R180). -/
  | startEdge
  /-- START_CONFIRMATION (R178), and whether the three samples were not all low. -/
  | startConfirmation (noisy : Bool)
  /-- GLITCH (R178). -/
  | glitch
  /-- CHARACTER_DELIVERED (R180). -/
  | characterDelivered (char : RxChar)
  /-- GAP_FOUND (R137). -/
  | gapFound
  /-- FRAME_START (R163). -/
  | frameStart
  /-- ECHO_CHECK (R164), with the character read back, if one was. -/
  | echoCheck (readBack : Option ReadBack)
  /-- CUT_WAIT_END (R151). -/
  | cutWaitEnd
  /-- RECEIPTS_BEAT_PENDING (R162). -/
  | receiptsBeatPending
  /-- LINE_HELD (R169). -/
  | lineHeld
  /-- HELD_END (R170). -/
  | heldEnd
  /-- UNKNOWN_REQUEST_CODE (R209): a whole request whose code is not 0 to 11. -/
  | unknownRequestCode (code : Byte) (body : List Byte)
  /-- FIRST_INPUT_LEVEL (R71): the channel's third sample gives it this level. -/
  | firstInputLevel (channel : ChannelNo) (level : Bool)
  deriving DecidableEq, Repr

end Sys2Proof
end

