-- ==== Sys2Proof/Decode.lean ====
section
/-! DEFINITION. The words of the opcode table.  Its rows give no bits, so no word spells a command. -/

namespace Sys2Proof

/-- The command the table's bits spell: none, since no row of spec/opcode_table.json gives bits. -/
def decodeTableWord (_nbits _w : Nat) : Option Instr :=
  none

end Sys2Proof
end

