-- ==== Sys2Proof/Config.lean ====
section
/-! DEFINITION. The free values of the model: what the spec leaves open and no proof can see.
They have no body; a statement that involves one holds whatever it is. -/

namespace Sys2Proof

/-- Which of the events that fall on one tick is taken next, where the spec allows more than one order
(R44, R72, R78, R93, R115, R158, R205, R206, R217).  Read at State.freeCount; log 3. -/
opaque Config.freePick : Nat → Nat

/-- Whether a PERIOD_EXPIRY found by the clock sweeps the roster before it evaluates (R7); log 4. -/
opaque Config.freeSweepFirst : Nat → Bool

/-- Whether a PERIOD_EXPIRY found by the clock makes its BEAT due before it evaluates and sweeps (R7); log 4. -/
opaque Config.freeBeatFirst : Nat → Bool

/-- Whether a jump's TIMEBASE_CHANGE report is queued before the reports of its jump notice; log 4. -/
opaque Config.freeChangeFirst : Nat → Bool

/-- Which channels take a jump notice before the cue table's firings (R64), bit c for channel c; log 4. -/
opaque Config.freeNoticeFirst : Nat → BitVec 8

/-- The arrival stamp (shared time, local time, offset) of a frame whose stamp was discarded while its assembly went on
(R25, R149), or whose lead came with none captured (R9, R136), by the start tick of its lead and the offset at its end; log 10. -/
opaque Config.freeStamp : Time → Time → Time × Time × Time

/-- What the field of C shows when C lies outside the signed 48 bits of the field (11.5, R17); log 27. -/
opaque Config.freeCorrection : Int → BitVec 48

/-- What the field of P shows when P lies outside the signed 24 bits of the field (11.5, R24); log 27. -/
opaque Config.freePending : Int → BitVec 24

end Sys2Proof
end

