-- ==== Sys2Proof/Machine/State.lean ====
section
/-! DEFINITION. The state of one LC3140, block by block, as plain data, and its values at reset. -/

namespace Sys2Proof.Machine

/-! ## Names shared by the blocks -/

/-- The station states (10.1). -/
inductive StationState where
  | prep | listen | active | muted | closing
  deriving DecidableEq, Repr

/-- The timebase states (1.6). -/
inductive TbState where
  | solo | gathering | locked | holdover
  deriving DecidableEq, Repr

/-- The causes of a STATION_STATE report (R203). -/
inductive Cause where
  | openLine | listenEnd | twin | unmute | close | left | leaveDropped
  deriving DecidableEq, Repr

/-- To whom a frame or a posting is addressed (00_scope.md, Numbering; R132). -/
inductive Target where
  | one (station : StationNo)
  | group (group : GroupNo)
  | all
  deriving DecidableEq, Repr

/-- The cue key (R26). -/
structure CueKey where
  origin : StationNo
  serial : Byte
  deriving DecidableEq, Repr

/-- The verdicts of installs and withdrawals (R38, R134). -/
inductive Verdict where
  | held | duplicate | done | withdrawn | stale | far | full | noChannel | malformed | tooLate | unknown
  deriving DecidableEq, Repr

/-- The actions of a cue (R27, R132). -/
inductive ActionKind where
  | raise | lower | flip | pulse | train
  deriving DecidableEq, Repr

/-- A cue record without its serial (R27): the fields as they were carried, in range or not. -/
structure CueSpec where
  channel : ChannelNo
  action : ActionKind
  report : Bool
  fire : Option Time
  width : Option (BitVec 24)
  period : Option (BitVec 24)
  count : Option Byte
  deriving DecidableEq, Repr

/-- A cue record (R27). -/
structure CueRecord where
  serial : Byte
  spec : CueSpec
  deriving DecidableEq, Repr

/-! ## The timebase (Chapter 1) -/

/-- An arrival stamp with the local time and the offset captured with it (R9). -/
structure ArrivalStamp where
  shared : Time
  localTime : Time
  offset : Time
  deriving DecidableEq, Repr

/-- One sample (1.4, R10).  The value is read as signed. -/
structure Sample where
  value : Time
  localTime : Time
  offset : Time
  reported : TbState
  deriving DecidableEq, Repr

/-- What the timebase owns (Chapter 1). -/
structure Timebase where
  /-- the local counter (R1) -/
  localTime : Time
  /-- the offset, read as signed (R2) -/
  offset : Time
  /-- the pending correction P (R3) -/
  correction : Int
  tbState : TbState
  agreements : Nat
  disagreements : Nat
  holdovers : Nat
  /-- the last spread W (R17) -/
  spread : Count16
  /-- the sample table, one slot a station number (1.4) -/
  samples : Vector (Option Sample) 32
  /-- the period timer: none when stopped, else the local time the present period is counted from (R6) -/
  periodStart : Option Time
  /-- the departure stamp being held (R8) -/
  departure : Option Time
  /-- the arrival stamp being held for the character under way (R9) -/
  arrival : Option ArrivalStamp
  /-- the model's own: the slew step of this tick has been taken (log 18) -/
  slewTaken : Bool
  /-- the model's own: the shared time a forward slew step stepped over on this tick (log 18) -/
  stepped : Option Time
  /-- the model's own: a jump was made on this tick (log 17) -/
  jumped : Bool
  deriving DecidableEq, Repr

/-! ## The cue table (Chapter 2) -/

/-- An action with the fields it uses, all in range (R27). -/
inductive HeldAction where
  | raise
  | lower
  | flip
  | pulse (width : BitVec 24)
  | train (width period : BitVec 24) (count : Byte)
  deriving DecidableEq, Repr

/-- The path by which a record came (2.2). -/
inductive InstallPath where
  | line | localPort
  deriving DecidableEq, Repr

/-- A held entry (2.2): a cue record reduced to the fields its action uses, with a fire time always. -/
structure HeldEntry where
  key : CueKey
  channel : ChannelNo
  action : HeldAction
  report : Bool
  fire : Time
  path : InstallPath
  installNo : Count16
  deriving DecidableEq, Repr

/-- How a cue left the table (R31). -/
inductive Departure where
  | fired | withdrawn
  deriving DecidableEq, Repr

/-- An entry of the recent-key list (R31). -/
structure RecentKey where
  key : CueKey
  how : Departure
  deriving DecidableEq, Repr

/-- What the cue table owns (Chapter 2). -/
structure CueTable where
  /-- the held entries, the head first (R29) -/
  held : List HeldEntry
  /-- the recent-key list, oldest first (R31) -/
  recent : List RecentKey
  installCount : Count16
  deriving DecidableEq, Repr

/-! ## The channels (Chapters 3 and 4) -/

/-- What is in progress on an output channel (3.2). -/
inductive RunKind where
  | idle | pulse | train
  deriving DecidableEq, Repr

/-- The kind of a run's next edge (3.2). -/
inductive EdgeKind where
  | finish | start
  deriving DecidableEq, Repr

/-- The output state of a channel (3.2).  High is true. -/
structure OutputState where
  level : Bool
  base : Bool
  run : RunKind
  nextTime : Option Time
  nextEdge : Option EdgeKind
  /-- pulses left, counting one in progress -/
  left : Nat
  /-- pulses completed -/
  completed : Nat
  /-- the run origin time (R54) -/
  origin : Option Time
  width : BitVec 24
  period : BitVec 24
  key : Option CueKey
  report : Bool
  deriving DecidableEq, Repr

/-- The input state of a channel (4.2, 4.3). -/
structure InputState where
  /-- the samples kept, newest first, at most three (R71) -/
  history : List Bool
  /-- the input level, none before the third sample -/
  level : Option Bool
  windowEnd : Option Time
  suppressed : Byte
  deriving DecidableEq, Repr

/-- A channel: OFF holds nothing, OUTPUT and INPUT hold their state (3.1). -/
inductive Channel where
  | off
  | output (state : OutputState)
  | input (state : InputState)
  deriving DecidableEq, Repr

/-! ## Marks (Chapter 4) -/

/-- A mark record (4.4). -/
structure MarkRecord where
  seq : Count16
  channel : ChannelNo
  /-- the edge: true for FALL, as bit 3 of M3 (R133) -/
  fall : Bool
  stamp : Time
  tbState : TbState
  suppressed : Byte
  deriving DecidableEq, Repr

/-- An entry of the outgoing mark list: a mark with its share target (4.6). -/
structure OutMark where
  mark : MarkRecord
  target : Target
  deriving DecidableEq, Repr

/-- What the mark side owns for the whole station (Chapter 4). -/
structure MarkSide where
  nextSeq : Count16
  outgoing : List OutMark
  sharedLoss : Byte
  deriving DecidableEq, Repr

/-! ## The roster (Chapter 5) -/

/-- The states of a peer (5.2). -/
inductive PeerState where
  | absent | joining | present | silent
  deriving DecidableEq, Repr

/-- The fields of a peer entry (5.1). -/
structure Peer where
  state : PeerState
  groups : GroupSet
  reported : Option TbState
  lastBeat : Option Time
  beats : Nat
  lastSeq : Option Byte
  missed : Count16
  mismatch : Bool
  deriving DecidableEq, Repr

/-- A roster entry (R86). -/
inductive RosterEntry where
  | self
  | peer (fields : Peer)
  deriving DecidableEq, Repr

/-- The causes of a ROSTER_CHANGE report (R99). -/
inductive RosterCause where
  | beat | sweep | leaving
  deriving DecidableEq, Repr

/-- What the roster owns (Chapter 5). -/
structure Roster where
  entries : Vector RosterEntry 32
  twinCount : Byte
  deriving DecidableEq, Repr

/-! ## Postings (Chapter 6) -/

/-- What stands for one expected station and one record or serial (6.1). -/
inductive Answer where
  | none
  | gone
  | given (verdict : Verdict)
  deriving DecidableEq, Repr

/-- An expected station with its verdicts, one per record or serial (6.1). -/
structure Expected where
  station : StationNo
  answers : List Answer
  deriving DecidableEq, Repr

/-- The kind of a posting, with its records or its serials (6.1). -/
inductive PostBody where
  | cue (records : List CueRecord)
  | withdraw (serials : List Byte)
  deriving DecidableEq, Repr

/-- Where a posting stands (6.1). -/
inductive PostState where
  | waiting | awaiting
  deriving DecidableEq, Repr

/-- A posting (6.1), with the collision count of its frame (R159). -/
structure Posting where
  id : Byte
  body : PostBody
  target : Target
  expected : List Expected
  selfVerdicts : Option (List Verdict)
  /-- transmissions made -/
  sent : Nat
  windowEnd : Option Time
  deadline : Option Time
  state : PostState
  collisions : Nat
  deriving DecidableEq, Repr

/-- What the posting unit owns (Chapter 6).  A reservation stands for each posting of the list (R107). -/
structure PostingUnit where
  /-- the posting list, oldest first -/
  list : List Posting
  nextSerial : Byte
  nextId : Byte
  receiptsDropped : Count16
  deriving DecidableEq, Repr

/-! ## Frames (Chapter 7) -/

/-- A frame in assembly (7.3). -/
structure Assembly where
  /-- the characters so far, the lead first -/
  chars : List Byte
  /-- the BROKEN mark -/
  broken : Bool
  /-- the arrival stamp held with the frame -/
  stamp : Option ArrivalStamp
  /-- the tick of the lead's start edge -/
  leadTick : Time
  /-- the end of the stop bit of the last character received -/
  lastEnd : Time
  deriving DecidableEq, Repr

/-- What the frame unit owns (Chapter 7). -/
structure FrameUnit where
  assembly : Option Assembly
  good : Count16
  broken : Count16
  overlong : Count16
  malformed : Count16
  badCheck : Count16
  stray : Count16
  noisy : Count16
  /-- the frame sequence counter (R148) -/
  sequence : Byte
  /-- the copy of the frame being sent (R145) -/
  copy : Option (List Byte)
  deriving DecidableEq, Repr

/-! ## Line access (Chapter 8) -/

/-- The frame-end reference (R150): the last sender is present only when the end was GOOD. -/
structure FrameEndRef where
  endTime : Time
  sender : Option StationNo
  good : Bool
  /-- the model's own: how often local time has come round to the end time since (R154, log 36) -/
  rounds : Nat := 0
  deriving DecidableEq, Repr

/-- The line conditions (R153). -/
inductive LineCondition where
  | clear | receiving | sending | cutWait | held
  deriving DecidableEq, Repr

/-- The states of the due BEAT (R161). -/
inductive DueBeat where
  | none | pending | inFlight | renewed
  deriving DecidableEq, Repr

/-- Which frame is in flight (R163); a MARK frame with the number of marks and the shared-loss count it
carries (R80), a posting frame with its posting's id and whether it is a WITHDRAW. -/
inductive FlightKind where
  | leavingBeat
  | dueBeat
  | posting (id : Byte) (isWithdraw : Bool)
  | mark (count : Nat) (loss : Byte)
  | receiptsBeat
  deriving DecidableEq, Repr

/-- The record of the frame in flight (R163). -/
structure Flight where
  kind : FlightKind
  /-- the frame's collision count at its start (log 12) -/
  collisions : Nat
  /-- the frame has lost its source while in flight (R168, log 25) -/
  lost : Bool
  /-- how many receipts its trailer carries (R125) -/
  receipts : Nat
  /-- the start tick -/
  start : Time
  deriving DecidableEq, Repr

/-- A receipt of the receipt list with the local time it was appended (6.8, R162). -/
structure HeldReceipt where
  key : CueKey
  verdict : Verdict
  time : Time
  /-- the model's own: how often local time has come round to that time since (R159, log 36) -/
  rounds : Nat := 0
  deriving DecidableEq, Repr

/-- What the line access unit owns (Chapter 8). -/
structure LineAccess where
  reference : Option FrameEndRef
  condition : LineCondition
  /-- in cut wait, the end of the last character seen (R151) -/
  cutEnd : Option Time
  /-- a frame end has been handed over since this listen period began (R152) -/
  endSeen : Bool
  leavingPending : Bool
  leavingCount : Nat
  due : DueBeat
  dueCount : Nat
  markCount : Nat
  receiptsPending : Bool
  receiptsCount : Nat
  flight : Option Flight
  /-- the receipt list, oldest first -/
  receipts : List HeldReceipt
  collisions : Count16
  drops : Count16
  beatsSkipped : Count16
  heldEpisodes : Count16
  deriving DecidableEq, Repr

/-! ## Line signalling (Chapter 9) -/

/-- The states of the receiver (9.2). -/
inductive RxPhase where
  | hunting | startCheck | bits | echo
  deriving DecidableEq, Repr

/-- A character whose stop bit is decided and which awaits delivery (R180), with the samples still to
come before the end of its stop bit. -/
structure WaitingChar where
  value : Byte
  noisy : Bool
  framing : Bool
  startTick : Time
  remaining : Nat
  deriving DecidableEq, Repr

/-- What line signalling owns (Chapter 9). -/
structure Signalling where
  /-- the own number, sampled from STN[4:0] -/
  own : StationNo
  /-- the rate code, sampled from RATE[1:0] -/
  rate : BitVec 2
  /-- the most recent LRX samples, newest first, at most three (R176) -/
  history : List Bool
  phase : RxPhase
  startTick : Time
  /-- the place of the start sample in its tick, 0 to 3 -/
  startPlace : Nat
  /-- the decision samples of the present bit, newest first -/
  votes : List Bool
  /-- the bits decided, the start bit first -/
  bits : List Bool
  noisy : Bool
  waiting : Option WaitingChar
  /-- which character of the own frame the echo comparator expects next -/
  echoIndex : Nat
  /-- LDE -/
  driving : Bool
  /-- the held-line detector is FOUND, not WATCHING -/
  found : Bool
  /-- the detector's count of samples of the run it watches (R186, R187) -/
  runLength : Nat
  glitches : Count16
  /-- the model's own: how many samples of the present tick have been taken (log 1) -/
  taken : Nat
  deriving DecidableEq, Repr

/-! ## Station control (Chapter 10) -/

/-- The edge senses (4.1). -/
inductive EdgeSense where
  | rising | falling | both
  deriving DecidableEq, Repr

/-- The share targets (4.1). -/
inductive Share where
  | none
  | group (group : GroupNo)
  | all
  deriving DecidableEq, Repr

/-- The settings of an INPUT channel (4.1); the holdoff is in microseconds. -/
structure InputSettings where
  sense : EdgeSense
  holdoff : Count16
  localReport : Bool
  share : Share
  deriving DecidableEq, Repr

/-- A channel's mode with the settings it uses; the others are not kept (R192). -/
inductive ChannelMode where
  | off
  | output (rest : Bool)
  | input (settings : InputSettings)
  deriving DecidableEq, Repr

/-- The configuration record (10.3). -/
structure ConfigRecord where
  groups : GroupSet
  beatCode : Byte
  jump : Count16
  lock : Count16
  holdoverLimit : Byte
  lineDelay : Byte
  threshold : Byte
  linger : Byte
  modes : Vector ChannelMode 8
  deriving DecidableEq, Repr

/-- What station control owns (Chapter 10). -/
structure StationControl where
  station : StationState
  config : Option ConfigRecord
  /-- the listen timer: none when stopped, else the local time it was started (R196) -/
  listenStart : Option Time
  /-- the cause of the last STATION_STATE change (R204) -/
  cause : Option Cause
  deriving DecidableEq, Repr

/-! ## The local port (Chapter 11) -/

/-- The statuses of a reply (11.5). -/
inductive Status where
  | ok | notPrep | noConfig | badConfig | notActive | listFull | noRoom | badRecord | badRequest | short | nop
  deriving DecidableEq, Repr

/-- A reply (11.1): its status and its body. -/
structure Reply where
  status : Status
  body : List Byte
  deriving DecidableEq, Repr

/-- The fields of a CUE_FIRED report (R47). -/
structure FiredReport where
  key : CueKey
  channel : ChannelNo
  path : InstallPath
  installNo : Option Count16
  fire : Option Time
  time : Time
  late : Bool
  tbState : TbState
  deriving DecidableEq, Repr

/-- The fields of a CUE_CUT report (R66); the reason is OVERTAKEN when a cutting key is given, else JUMP. -/
structure CutReport where
  key : CueKey
  channel : ChannelNo
  completed : Nat
  count : Nat
  cutting : Option CueKey
  time : Time
  deriving DecidableEq, Repr

/-- The outcomes of a posting (R122). -/
inductive PostOutcome where
  | complete | incomplete | expired | lineFailed | abandoned
  deriving DecidableEq, Repr

/-- The fields of a POSTING_DONE report (R123). -/
structure DoneReport where
  id : Byte
  isWithdraw : Bool
  outcome : PostOutcome
  sent : Nat
  /-- the number of records or serials -/
  count : Nat
  selfVerdicts : Option (List Verdict)
  goodCount : Nat
  others : List Expected
  deriving DecidableEq, Repr

/-- The kinds of frame a TROUBLE report names (R167, 11.5). -/
inductive TroubleKind where
  | dueBeat | receiptsBeat | leavingBeat | cue | withdraw | mark
  deriving DecidableEq, Repr

/-- The reports (11.3), with the fields of each kind. -/
inductive ReportBody where
  | localMark (mark : MarkRecord)
  | peerMark (origin : StationNo) (mark : MarkRecord) (loss : Byte)
  | cueFired (fired : FiredReport)
  | cueCut (cut : CutReport)
  | postingDone (done : DoneReport)
  | rosterChange (station : StationNo) (old new : PeerState) (cause : RosterCause)
  | timebaseChange (old new : TbState) (correction : Int) (spread : Count16)
  | lineHeld (shared : Time)
  | lineTrouble (kind : TroubleKind) (posting : Byte) (marks : Nat)
  | lineTwin (count : Byte) (kind : Byte) (sequence : Byte)
  | lineMismatch (station : StationNo) (heard own : Byte)
  | stationState (old new : StationState) (cause : Cause)
  deriving DecidableEq, Repr

/-- A report as it stands in the queue, with its lost-before count (R212). -/
structure Report where
  lostBefore : Byte
  body : ReportBody
  deriving DecidableEq, Repr

/-- What the local port owns (Chapter 11). -/
structure LocalPort where
  /-- the characters LMISO carries in the exchange in progress (R207) -/
  exchange : Option (List Byte)
  /-- the request buffer: the characters gathered from LMOSI in the exchange last settled (R207, log 8) -/
  request : List Byte
  /-- the reply holder (R208) -/
  holder : Reply
  /-- the report queue, oldest first -/
  queue : List Report
  urgent : Nat
  lost : Byte
  /-- the linger timer: none when stopped, else the local time it was started (R217) -/
  lingerStart : Option Time
  lingerFlag : Bool
  deriving DecidableEq, Repr

/-! ## The whole station -/

/-- What the outside world will show at the pins (log 5). -/
structure World where
  /-- the LRX samples still to come, next first -/
  lrx : List Bool
  /-- the levels now at CH0 to CH7, bit c for channel c -/
  pins : BitVec 8
  /-- the levels at CH0 to CH7 on the ticks still to come -/
  feed : List (BitVec 8)
  deriving DecidableEq, Repr

/-- The state of the station. -/
structure State where
  /-- the commands waiting, first in first out -/
  pending : List Instr
  tb : Timebase
  cues : CueTable
  chans : Vector Channel 8
  marks : MarkSide
  roster : Roster
  post : PostingUnit
  frames : FrameUnit
  access : LineAccess
  sig : Signalling
  control : StationControl
  port : LocalPort
  world : World
  /-- the model's own: the counter the free choices are applied to (log 3) -/
  freeCount : Nat
  /-- the model's own: a firing of this tick was tested against the slew step still to come, which comes before a period
  expiry now (R61, log 32) -/
  stepFixed : Bool
  deriving DecidableEq, Repr

/-- The machine has no stop of its own: the spec describes none (log 28). -/
inductive Fault where
  deriving DecidableEq, Repr

/-- The refusals of a step. -/
inductive Refusal where
  /-- Raised by exec for a command that has no meaning yet; safe.  No arm raises it. -/
  | notModelled (mnemonic : String)
  deriving DecidableEq, Repr

/-! ## Values at power-on and pin reset -/

/-- The timebase at reset (R25). -/
def Timebase.reset : Timebase where
  localTime := 0
  offset := 0
  correction := 0
  tbState := .solo
  agreements := 0
  disagreements := 0
  holdovers := 0
  spread := 0
  samples := Vector.replicate 32 none
  periodStart := none
  departure := none
  arrival := none
  slewTaken := false
  stepped := none
  jumped := false

/-- A peer entry as reset clears it (R101). -/
def Peer.cleared : Peer where
  state := .absent
  groups := 0
  reported := none
  lastBeat := none
  beats := 0
  lastSeq := none
  missed := 0
  mismatch := false

/-- The roster's entries as reset clears them: SELF at the own number (R86, R101). -/
def clearedEntries (own : StationNo) : Vector RosterEntry 32 :=
  Vector.ofFn fun n => if n.val = own.toNat then .self else .peer Peer.cleared

/-- The frame unit at reset (R149). -/
def FrameUnit.reset : FrameUnit where
  assembly := none
  good := 0
  broken := 0
  overlong := 0
  malformed := 0
  badCheck := 0
  stray := 0
  noisy := 0
  sequence := 0
  copy := none

/-- The line access unit at reset (R174, R127). -/
def LineAccess.reset : LineAccess where
  reference := none
  condition := .clear
  cutEnd := none
  endSeen := false
  leavingPending := false
  leavingCount := 0
  due := .none
  dueCount := 0
  markCount := 0
  receiptsPending := false
  receiptsCount := 0
  flight := none
  receipts := []
  collisions := 0
  drops := 0
  beatsSkipped := 0
  heldEpisodes := 0

/-- Line signalling at reset, with the straps sampled (R175, R189). -/
def Signalling.reset (own : StationNo) (rate : BitVec 2) : Signalling where
  own := own
  rate := rate
  history := []
  phase := .hunting
  startTick := 0
  startPlace := 0
  votes := []
  bits := []
  noisy := false
  waiting := none
  echoIndex := 0
  driving := false
  found := false
  runLength := 0
  glitches := 0
  taken := 0

/-- The NOP reply (R210). -/
def Reply.nopReply : Reply where
  status := .nop
  body := []

/-- The local port at reset (R220). -/
def LocalPort.reset : LocalPort where
  exchange := none
  request := []
  holder := Reply.nopReply
  queue := []
  urgent := 0
  lost := 0
  lingerStart := none
  lingerFlag := false

/-- Every block at its power-on values, with the straps as sampled (R190). -/
def State.powerOn (own : StationNo) (rate : BitVec 2) : State where
  pending := []
  tb := Timebase.reset
  cues := { held := [], recent := [], installCount := 0 }
  chans := Vector.replicate 8 .off
  marks := { nextSeq := 0, outgoing := [], sharedLoss := 0 }
  roster := { entries := clearedEntries own, twinCount := 0 }
  post := { list := [], nextSerial := 0, nextId := 0, receiptsDropped := 0 }
  frames := FrameUnit.reset
  access := LineAccess.reset
  sig := Signalling.reset own rate
  control := { station := .prep, config := none, listenStart := none, cause := none }
  port := LocalPort.reset
  world := { lrx := [], pins := 0, feed := [] }
  freeCount := 0
  stepFixed := false

/-- The machine right after reset (R190), on a board strapped as station 0 at rate 0 (log 6). -/
def State.reset : State :=
  State.powerOn 0 0

end Sys2Proof.Machine
end

