-- ==== Sys2Proof/Machine/Ops.lean ====
section
/-! DEFINITION. The operations every block shares: updates of one block, times and intervals, the
ahead-distance words, saturating counters, characters of a field, and the admission of reports. -/

namespace Sys2Proof.Machine

/-! ## Updates of one block -/

/-- Update the queue of commands. -/
def State.onPending (s : State) (f : List Instr → List Instr) : State := { s with pending := f s.pending }
/-- Update the timebase. -/
def State.onTb (s : State) (f : Timebase → Timebase) : State := { s with tb := f s.tb }
/-- Update the cue table. -/
def State.onCues (s : State) (f : CueTable → CueTable) : State := { s with cues := f s.cues }
/-- Update the channels. -/
def State.onChans (s : State) (f : Vector Channel 8 → Vector Channel 8) : State := { s with chans := f s.chans }
/-- Update the mark side. -/
def State.onMarks (s : State) (f : MarkSide → MarkSide) : State := { s with marks := f s.marks }
/-- Update the roster. -/
def State.onRoster (s : State) (f : Roster → Roster) : State := { s with roster := f s.roster }
/-- Update the posting unit. -/
def State.onPost (s : State) (f : PostingUnit → PostingUnit) : State := { s with post := f s.post }
/-- Update the frame unit. -/
def State.onFrames (s : State) (f : FrameUnit → FrameUnit) : State := { s with frames := f s.frames }
/-- Update the line access unit. -/
def State.onAccess (s : State) (f : LineAccess → LineAccess) : State := { s with access := f s.access }
/-- Update line signalling. -/
def State.onSig (s : State) (f : Signalling → Signalling) : State := { s with sig := f s.sig }
/-- Update station control. -/
def State.onControl (s : State) (f : StationControl → StationControl) : State := { s with control := f s.control }
/-- Update the local port. -/
def State.onPort (s : State) (f : LocalPort → LocalPort) : State := { s with port := f s.port }
/-- Update the outside world. -/
def State.onWorld (s : State) (f : World → World) : State := { s with world := f s.world }
/-- Update the counter of free choices. -/
def State.onFree (s : State) (f : Nat → Nat) : State := { s with freeCount := f s.freeCount }

/-- Note that a slew step still to come is fixed, or leave it as it was (R61, log 32). -/
def State.fixStep (s : State) (fixes : Bool) : State := { s with stepFixed := s.stepFixed || fixes }

/-! ## Capacities -/

/-- R29: the table holds at most 64 entries. -/
def cueCapacity : Nat := 64
/-- R31: the recent-key list holds at most 32 entries. -/
def recentCapacity : Nat := 32
/-- 4.6: the outgoing mark list holds at most 12 marks. -/
def markCapacity : Nat := 12
/-- R79: a MARK frame carries at most 6 marks. -/
def marksPerFrame : Nat := 6
/-- R103: the posting list holds at most 8 postings. -/
def postingCapacity : Nat := 8
/-- R124: the receipt list holds at most 16 receipts. -/
def receiptCapacity : Nat := 16
/-- R125: a frame carries at most 8 receipts. -/
def receiptsPerFrame : Nat := 8
/-- 11.3: the report queue has 48 places. -/
def reportCapacity : Nat := 48
/-- R129: a frame is at most 96 characters. -/
def frameCapacity : Nat := 96
/-- R167: the collision count that drops a frame. -/
def dropCount : Nat := 8
/-- R114: a posting is sent at most 4 times. -/
def maxTransmissions : Nat := 4

/-! ## Time -/

/-- Local time (R1). -/
def State.now (s : State) : Time := s.tb.localTime

/-- Shared time: local time plus the offset, modulo 2^48 (R2). -/
def State.shared (s : State) : Time := s.tb.localTime + s.tb.offset

/-- Ticks of local time from a past tick to this one. -/
def elapsed (now since : Time) : Nat := (now - since).toNat

/-- Ticks from a past tick to this one, with the rounds of the local counter made since (R154, R159, log 36). -/
def elapsedOver (rounds : Nat) (now since : Time) : Nat := 2 ^ 48 * rounds + elapsed now since

/-- The rounds counted since a tick, as local time moves to a value: one more when it comes round to that tick (log 36). -/
def roundsAt (now since : Time) (rounds : Nat) : Nat := if now = since then rounds + 1 else rounds

/-- The beat period B in ticks, by its code (00_scope.md, Conventions). -/
def beatPeriod (code : Byte) : Nat :=
  match code.toNat with
  | 0 => 100000
  | 1 => 200000
  | 2 => 500000
  | 3 => 1000000
  | 4 => 2000000
  | _ => 5000000

/-- B of the accepted record; 0 with no record, which no rule reads (log 23). -/
def State.beat (s : State) : Nat :=
  match s.control.config with
  | some c => beatPeriod c.beatCode
  | none => 0

/-- Ticks of one bit time at the strapped rate (R175). -/
def ticksPerBit (rate : BitVec 2) : Nat :=
  match rate.toNat with
  | 0 => 10
  | 1 => 4
  | 2 => 2
  | _ => 1

/-- Ticks of one character time (R175). -/
def State.ct (s : State) : Nat := 10 * ticksPerBit s.sig.rate

/-- 1.5 ct in ticks (R128). -/
def State.gapTicks (s : State) : Nat := 15 * ticksPerBit s.sig.rate

/-- Samples of one bit time, Q (R175). -/
def State.samplesPerBit (s : State) : Nat := 4 * ticksPerBit s.sig.rate

/-- A tick a number of ticks after another, modulo 2^48. -/
def plusTicks (t : Time) (n : Nat) : Time := t + BitVec.ofNat 48 n

/-- Whether a local time has been reached: this tick is it, or is less than 2^47 ticks after it (log 20). -/
def reachedTime (now t : Time) : Bool := elapsed now t < 2 ^ 47

/-! ## Ahead distance (R28) -/

/-- The ahead distance of F from N, (F − N) modulo 2^48, unsigned (R28). -/
def ahead (f n : Time) : Nat := (f - n).toNat

/-- The horizon, 2^36 ticks (R28). -/
def horizon : Nat := 2 ^ 36

/-- R28: due. -/
def isDue (f n : Time) : Bool := ahead f n == 0
/-- R28: ahead, 1 to 2^36. -/
def isAhead (f n : Time) : Bool := 1 ≤ ahead f n && ahead f n ≤ horizon
/-- R28: far, above 2^36 and below 2^47. -/
def isFar (f n : Time) : Bool := horizon < ahead f n && ahead f n < 2 ^ 47
/-- R28: passed, 2^47 or more. -/
def isPassed (f n : Time) : Bool := 2 ^ 47 ≤ ahead f n

/-- A forward slew step of this tick stepped over a shared time (R42, R60). -/
def State.steppedOver (s : State) (t : Time) : Bool := s.tb.stepped == some t

/-- Whether the watches reach a shared time on this tick: it is the present one, or a forward slew step
stepped over it on this tick (R42, R60, log 18). -/
def State.reaches (s : State) (t : Time) : Bool := t == s.shared || s.steppedOver t

/-- This tick marks a slew step that has not been taken yet (R3). -/
def State.slewMarked (s : State) : Bool := s.tb.localTime.toNat % 1024 == 0 && !s.tb.slewTaken

/-! ## Counters -/

/-- A counter that saturates at the greatest value of its width (00_scope.md, Counters). -/
def satInc {w : Nat} (c : BitVec w) : BitVec w := if c = BitVec.allOnes w then c else c + 1

/-- Several counts at once, saturating. -/
def satAdd {w : Nat} (c : BitVec w) (n : Nat) : BitVec w := BitVec.ofNat w (min (2 ^ w - 1) (c.toNat + n))

/-! ## Characters -/

/-- A flag as a number. -/
def bitOf (b : Bool) : Nat := if b then 1 else 0

/-- A character from a number, cut to eight bits. -/
def byte (n : Nat) : Byte := BitVec.ofNat 8 n

/-- A field of some characters, the most significant first (R129, R207). -/
def bytesOf : Nat → Nat → List Byte
  | 0, _ => []
  | n + 1, v => byte (v / 256 ^ n) :: bytesOf n v

/-- The number a field of characters carries, the most significant first (R129, R207). -/
def natOf (bytes : List Byte) : Nat := bytes.foldl (fun v b => v * 256 + b.toNat) 0

/-! ## The report queue (11.3) -/

/-- The urgent reports: LINE_EVENT and STATION_STATE (11.3). -/
def ReportBody.urgent : ReportBody → Bool
  | .lineHeld _ | .lineTrouble _ _ _ | .lineTwin _ _ _ | .lineMismatch _ _ _ | .stationState _ _ _ => true
  | .localMark _ | .peerMark _ _ _ | .cueFired _ | .cueCut _ | .postingDone _ | .rosterChange _ _ _ _
  | .timebaseChange _ _ _ _ => false

/-- Reports in the queue plus reservations (R107, R211). -/
def State.reportSum (s : State) : Nat := s.port.queue.length + s.post.list.length

/-- Put a report at the tail: it takes the lost count, which returns to 0 (R212), counts as urgent
(R211, R216) and restarts the linger timer while a record is held (R217). -/
def enqueue (body : ReportBody) (s : State) : State :=
  s.onPort fun p => { p with
    queue := p.queue ++ [{ lostBefore := p.lost, body := body }]
    lost := 0
    urgent := p.urgent + bitOf body.urgent
    lingerStart := if s.control.config.isSome then some s.now else none }

/-- Queue a report of any block other than the posting unit: it is admitted while the sum stands below
48, and is lost and counted otherwise (R211). -/
def queueReport (body : ReportBody) (s : State) : State :=
  if s.reportSum < reportCapacity then enqueue body s
  else s.onPort fun p => { p with lost := satInc p.lost }

/-- Queue several reports in order, each admitted or lost on its own (R211). -/
def queueReports (bodies : List ReportBody) (s : State) : State :=
  bodies.foldl (fun s b => queueReport b s) s

/-! ## The roster's and the sample table's slots -/

/-- The roster entry of a station number (R86). -/
def State.entry (s : State) (p : StationNo) : RosterEntry := s.roster.entries[p.toNat]

/-- The peer fields of a station number, if it is not SELF. -/
def State.peer? (s : State) (p : StationNo) : Option Peer :=
  match s.entry p with
  | .self => none
  | .peer fields => some fields

/-- Write a peer's entry; the SELF entry is never written (R86). -/
def setPeer (p : StationNo) (fields : Peer) (s : State) : State :=
  match s.entry p with
  | .self => s
  | .peer _ => s.onRoster fun r => { r with entries := r.entries.set p.toNat (.peer fields) }

/-- The roster shows the station PRESENT (R100). -/
def State.isPresent (s : State) (p : StationNo) : Bool :=
  match s.peer? p with
  | some e => e.state == .present
  | none => false

/-- The station numbers in ascending order. -/
def stations : List StationNo := (List.range 32).map (BitVec.ofNat 5)

/-- The channel numbers in ascending order. -/
def channelNumbers : List ChannelNo := (List.range 8).map (BitVec.ofNat 3)

/-- A channel's state. -/
def State.chan (s : State) (c : ChannelNo) : Channel := s.chans[c.toNat]

/-- Write a channel's state. -/
def setChan (c : ChannelNo) (ch : Channel) (s : State) : State :=
  s.onChans fun v => v.set c.toNat ch

/-- The groups of the accepted configuration record; none before a record is accepted (R144). -/
def State.groups (s : State) : GroupSet :=
  match s.control.config with
  | some c => c.groups
  | none => 0

/-- Whether a target includes this station (R32, R109, R144). -/
def State.includesSelf (s : State) : Target → Bool
  | .one p => p == s.sig.own
  | .group g => s.groups.getLsbD g.toNat
  | .all => true

/-- Outside PREP: the states in which the blocks take arrivals and fire (R32, R49, R87). -/
def State.opened (s : State) : Bool := s.control.station != .prep

/-! ## What a tick's slew step waits for -/

/-- The period timer has run B from the present period's start, outside PREP (R6, log 20). -/
def State.periodExpired (s : State) : Bool :=
  match s.control.config, s.tb.periodStart with
  | some _, some since => s.opened && s.beat ≤ elapsed s.now since
  | _, _ => false

/-- A slew step of this tick that may move the offset is still to be taken, so the watches wait for it: P is not zero, or
a period expiry of the tick may still change it (R3, R12, R60, log 18). -/
def State.slewDue (s : State) : Bool := s.slewMarked && (s.tb.correction != 0 || s.periodExpired)

/-- The shared time this tick ends with: a forward slew step still to be taken is counted (R3, R61, log 32). -/
def State.tickShared (s : State) : Time :=
  if s.slewMarked && decide (0 < s.tb.correction) then s.shared + 1 else s.shared

end Sys2Proof.Machine
end

