-- ==== Sys2Proof/Machine/Channels.lean ====
section
/-! DEFINITION. Output channels: applying a fired action, taking edges, jump notices, and the channel values
at a configuration and on reaching PREP (Chapter 3, and the input state's values of Chapter 4). -/

namespace Sys2Proof.Machine

/-! ## Setting a channel up (R52, R67, R68, R70) -/

/-- An OUTPUT channel at its rest level (R52). -/
def OutputState.atRest (rest : Bool) : OutputState where
  level := rest
  base := rest
  run := .idle
  nextTime := none
  nextEdge := none
  left := 0
  completed := 0
  origin := none
  width := 0
  period := 0
  key := none
  report := false

/-- An INPUT channel set up afresh (R70). -/
def InputState.fresh : InputState where
  history := []
  level := none
  windowEnd := none
  suppressed := 0

/-- A channel as its mode sets it up (R52, R70). -/
def Channel.setUp : ChannelMode → Channel
  | .off => .off
  | .output rest => .output (OutputState.atRest rest)
  | .input _ => .input InputState.fresh

/-- The mode the record gives a channel; OFF with no record. -/
def modeOf (config : Option ConfigRecord) (i : Fin 8) : ChannelMode :=
  match config with
  | some c => c.modes[i]
  | none => .off

/-- The channels of a record: as at its acceptance (R52, R70, R68); all OFF with no record. -/
def setUpChannels (config : Option ConfigRecord) : Vector Channel 8 :=
  Vector.ofFn fun i => Channel.setUp (modeOf config i)

/-- The rest level of an OUTPUT channel; its base level where no record makes it OUTPUT, which no run reaches
(log 23). -/
def OutputState.restLevel (o : OutputState) : ChannelMode → Bool
  | .output rest => rest
  | .off | .input _ => o.base

/-- A channel on reaching PREP by CLOSE: an OUTPUT returns to rest (R67), an INPUT keeps its samples and
level and loses its window and suppressed count (R85). -/
def Channel.reachPrep (mode : ChannelMode) : Channel → Channel
  | .off => .off
  | .output o => .output (OutputState.atRest (o.restLevel mode))
  | .input i => .input { i with windowEnd := none, suppressed := 0 }

/-- The channels on reaching PREP by CLOSE (R67, R85). -/
def channelsReachPrep (config : Option ConfigRecord) (chans : Vector Channel 8) : Vector Channel 8 :=
  Vector.ofFn fun i => Channel.reachPrep (modeOf config i) chans[i]

/-! ## Runs (3.2) -/

/-- A run ends or is cut: IDLE, with the next edge, the run origin time and the running key cleared
(R55, R66). -/
def OutputState.toIdle (o : OutputState) : OutputState :=
  { o with run := .idle, nextTime := none, nextEdge := none, origin := none, key := none }

/-- The pulses the run was to make: those completed and those left (3.2, R66). -/
def OutputState.count (o : OutputState) : Nat := o.completed + o.left

/-- The CUE_CUT report of the run in progress (R66). -/
def OutputState.cutReport (o : OutputState) (channel : ChannelNo) (completed : Nat)
    (cutting : Option CueKey) (time : Time) : ReportBody :=
  .cueCut
    { key := o.key.getD { origin := 0, serial := 0 }
      channel := channel
      completed := completed
      count := o.count
      cutting := cutting
      time := time }

/-- Take the next edge (R57, R58): an END returns to the base level and counts the pulse, a START goes to the
pulse level; after the last END the run is IDLE. -/
def OutputState.takeEdge (o : OutputState) : OutputState :=
  match o.nextEdge with
  | none => o
  | some .finish =>
    let o := { o with level := o.base, completed := o.completed + 1, left := o.left - 1 }
    if o.left = 0 then o.toIdle
    else { o with
      nextEdge := some .start
      nextTime := some (plusTicks (o.origin.getD 0) (o.completed * o.period.toNat)) }
  | some .start =>
    { o with
      level := !o.base
      nextEdge := some .finish
      nextTime := some (plusTicks (o.origin.getD 0) (o.completed * o.period.toNat + o.width.toNat)) }

/-- End a run whose next edge shared time has passed (R61, R63): base level, IDLE, a pulse in progress counted
completed; a TRAIN with pulses still to come reports CUE_CUT with reason JUMP if its flag is set. -/
def OutputState.endPassed (o : OutputState) (channel : ChannelNo) (time : Time) : OutputState × List ReportBody :=
  let counted := match o.nextEdge with
    | some .finish => { o with completed := o.completed + 1, left := o.left - 1 }
    | some .start | none => o
  ({ counted.toIdle with level := o.base },
    if 0 < counted.left ∧ o.report then [counted.cutReport channel counted.completed none time] else [])

/-- Cut the run in progress before an action (R55): base level and IDLE, with CUE_CUT OVERTAKEN if its flag
is set; nothing when IDLE. -/
def OutputState.cut (o : OutputState) (channel : ChannelNo) (cutting : CueKey) (time : Time) :
    OutputState × List ReportBody :=
  if o.run = .idle then (o, [])
  else ({ o.toIdle with level := o.base },
    if o.report then [o.cutReport channel o.completed (some cutting) time] else [])

/-- Start a run of n pulses (R54, R57, R58): the base is the level standing, the level becomes the pulse level,
and the first edge is the END of pulse 1. -/
def OutputState.startRun (o : OutputState) (kind : RunKind) (width period : BitVec 24) (n : Nat)
    (key : CueKey) (report : Bool) (origin : Time) : OutputState :=
  { o with
    base := o.level
    level := !o.level
    run := kind
    origin := some origin
    width := width
    period := period
    left := n
    completed := 0
    nextEdge := some .finish
    nextTime := some (plusTicks origin width.toNat)
    key := some key
    report := report }

/-- The first-edge test against the shared time the firing tick ends with (R61): ahead, the run goes on; due, the END
is taken; passed, the run ends. -/
def OutputState.testFirstEdge (o : OutputState) (channel : ChannelNo) (now tickEnd : Time) :
    OutputState × List ReportBody :=
  match o.nextTime with
  | none => (o, [])
  | some e =>
    if isDue e tickEnd then (o.takeEdge, [])
    else if isPassed e tickEnd then o.endPassed channel now
    else (o, [])

/-- Apply an action to a channel after any cut (R56, R57, R58, R61); the origin of a run is the fire time, or
the shared time of the firing when there is none (R54). -/
def OutputState.act (o : OutputState) (channel : ChannelNo) (action : HeldAction) (key : CueKey) (report : Bool)
    (fire : Option Time) (now tickEnd : Time) : OutputState × List ReportBody :=
  match action with
  | .raise => ({ o with level := true }, [])
  | .lower => ({ o with level := false }, [])
  | .flip => ({ o with level := !o.level }, [])
  | .pulse width =>
    (o.startRun .pulse width 0 1 key report (fire.getD now)).testFirstEdge channel now tickEnd
  | .train width period count =>
    (o.startRun .train width period count.toNat key report (fire.getD now)).testFirstEdge channel now tickEnd

/-- The END of pulse 1 of the run an action starts, by its origin (R57, R58). -/
def HeldAction.firstEnd (origin : Time) : HeldAction → Option Time
  | .pulse width | .train width _ _ => some (plusTicks origin width.toNat)
  | .raise | .lower | .flip => none

/-- The first-edge test of a firing turns on the slew step of its tick, still to be taken: the END of pulse 1 stands one
tick ahead (R61, log 32). -/
def State.testsTheStep (s : State) (action : HeldAction) (fire : Option Time) : Bool :=
  s.slewMarked && action.firstEnd (fire.getD s.shared) == some (s.shared + 1)

/-- Hand a fired action to its channel (R55 to R61), with the CUE_FIRED report of the cue, if any, between the
cut's report and the cue's own CUE_CUT (R59).  When the first-edge test turns on a slew step still to come, the step is
fixed (log 32). -/
def fireAtChannel (channel : ChannelNo) (action : HeldAction) (key : CueKey) (report : Bool) (fire : Option Time)
    (fired : List ReportBody) (s : State) : State :=
  match s.chan channel with
  | .output o =>
    let (afterCut, cutReports) := o.cut channel key s.shared
    let (afterAct, ownReports) := afterCut.act channel action key report fire s.shared s.tickShared
    queueReports ownReports (queueReports fired (queueReports cutReports
      (setChan channel (.output afterAct) (s.fixStep (s.testsTheStep action fire)))))
  | .off | .input _ => queueReports fired s

/-! ## The edge watch (R60) -/

/-- The watch reaches the next edge of the channel's run on this tick: it runs outside PREP, and on a slew
tick after the step (R60, log 18). -/
def State.edgeReached (s : State) (channel : ChannelNo) : Bool :=
  match s.chan channel with
  | .output o =>
    s.opened && !s.slewDue && o.run != .idle &&
      match o.nextTime with
      | some t => s.reaches t
      | none => false
  | .off | .input _ => false

/-- Take the edge a channel has reached, if it has. -/
def takeReachedEdge (channel : ChannelNo) (s : State) : State :=
  match s.chan channel with
  | .output o => if s.edgeReached channel then setChan channel (.output o.takeEdge) s else s
  | .off | .input _ => s

/-- The edge watch at a channel: the reached edge, and the one after it when it is reached on the same tick
(R60). -/
def watchEdges (channel : ChannelNo) (s : State) : State :=
  takeReachedEdge channel (takeReachedEdge channel s)

/-- EDGE_REACHED (R60). -/
def execEdgeReached (channel : ChannelNo) (s : State) : Host.Outcome State Fault Refusal :=
  .next (watchEdges channel s)

/-! ## Jump notices (R63) -/

/-- A forward jump's notice at one channel: a run whose next edge lies less than C ahead of the shared time
just before the jump ends (R63). -/
def noticeAtChannel (before after : Time) (correction : Nat) (s : State) (channel : ChannelNo) : State :=
  match s.chan channel with
  | .output o =>
    match o.run, o.nextTime with
    | .idle, _ | _, none => s
    | _, some e =>
      if ahead e before < correction then
        let (ended, reports) := o.endPassed channel after
        queueReports reports (setChan channel (.output ended) s)
      else s
  | .off | .input _ => s

end Sys2Proof.Machine
end

