-- ==== Sys2Proof/Machine/CueTable.lean ====
section
/-! DEFINITION. The cue table: the recent-key list, installs, withdrawals, firings and the receipts they earn
(Chapter 2, section 6.8). -/

namespace Sys2Proof.Machine

/-! ## The recent-key list (R31) -/

/-- A key joins at the young end: its old entry is removed, or the oldest of 32 is dropped (R31). -/
def addRecent (key : CueKey) (how : Departure) (recent : List RecentKey) : List RecentKey :=
  let rest := recent.filter fun r => r.key != key
  rest.drop (rest.length + 1 - recentCapacity) ++ [{ key := key, how := how }]

/-- A cue leaves the table: it is no longer held, and its key is recorded (R31). -/
def CueTable.leave (key : CueKey) (how : Departure) (t : CueTable) : CueTable :=
  { t with held := t.held.filter (fun e => e.key != key), recent := addRecent key how t.recent }

/-- The key is held. -/
def CueTable.holds (t : CueTable) (key : CueKey) : Bool := t.held.any fun e => e.key == key

/-- How the key left, when it stands in the recent-key list. -/
def CueTable.leftBy (t : CueTable) (key : CueKey) : Option Departure :=
  (t.recent.find? fun r => r.key == key).map RecentKey.how

/-! ## The MALFORMED test (R27, R34) -/

/-- A width in its range, 1 to 1,048,575 (R27). -/
def validWidth (w : BitVec 24) : Bool := 1 ≤ w.toNat && w.toNat ≤ 1048575

/-- The action of a record with the fields it uses, none when the record is MALFORMED (R34); the fields the
action does not use are dropped (R27). -/
def CueSpec.heldAction (r : CueSpec) : Option HeldAction :=
  match r.action with
  | .raise => some .raise
  | .lower => some .lower
  | .flip => some .flip
  | .pulse =>
    match r.width with
    | some w => if validWidth w then some (.pulse w) else none
    | none => none
  | .train =>
    match r.width, r.period, r.count with
    | some w, some p, some n =>
      if validWidth w && 2 ≤ p.toNat && w.toNat < p.toNat && 2 ≤ n.toNat then some (.train w p n) else none
    | _, _, _ => none

/-! ## The order of held entries (R29) -/

/-- The ahead distance an entry is ordered by: an entry that is due, stepped over by a slew step of this tick
included (R42), stands at 0. -/
def State.orderDistance (s : State) (fire : Time) : Nat :=
  if s.reaches fire then 0 else ahead fire s.shared

/-- Place an entry after every entry of an equal or smaller distance and before the larger ones (R29). -/
def placeEntry (dist : Time → Nat) (e : HeldEntry) : List HeldEntry → List HeldEntry
  | [] => [e]
  | h :: rest => if dist h.fire ≤ dist e.fire then h :: placeEntry dist e rest else e :: h :: rest

/-! ## Firing (R43) -/

/-- The CUE_FIRED report of a cue, when its report flag is set (R43, R47). -/
def firedReports (report : Bool) (fired : FiredReport) : List ReportBody :=
  if report then [.cueFired fired] else []

/-- Fire one cue: it leaves the table as FIRED, its action goes to its channel, and CUE_FIRED is queued if
flagged, in the order of R59 (R43). -/
def fireCue (key : CueKey) (channel : ChannelNo) (action : HeldAction) (report : Bool) (path : InstallPath)
    (installNo : Option Count16) (fire : Option Time) (late : Bool) (s : State) : State :=
  fireAtChannel channel action key report fire
    (firedReports report
      { key := key, channel := channel, path := path, installNo := installNo, fire := fire,
        time := s.shared, late := late, tbState := s.tb.tbState })
    (s.onCues (CueTable.leave key .fired))

/-- Fire one held entry (R43). -/
def fireEntry (late : Bool) (s : State) (e : HeldEntry) : State :=
  fireCue e.key e.channel e.action e.report e.path (some e.installNo) (some e.fire) late s

/-- The firing watch is at work and has come to some held entry: outside PREP, and on a slew tick after the
step (R42, log 18). -/
def State.headDue (s : State) : Bool :=
  s.opened && !s.slewDue && s.cues.held.any fun e => s.reaches e.fire

/-- Every due entry fires, in table order, as one event (R44). -/
def fireDue (s : State) : State :=
  if s.headDue then (s.cues.held.filter fun e => s.reaches e.fire).foldl (fireEntry false) s else s

/-- HEAD_DUE (R42). -/
def execHeadDue (s : State) : Host.Outcome State Fault Refusal :=
  .next (fireDue s)

/-- A forward jump by C: every entry at most C ahead of the shared time just before it fires, in table order;
late unless its fire time is the shared time just after it (R45). -/
def fireJumped (before after : Time) (correction : Nat) (s : State) : State :=
  (s.cues.held.filter fun e => ahead e.fire before ≤ correction).foldl
    (fun s e => fireEntry (e.fire != after) s e) s

/-! ## Receipts (R37, R124) -/

/-- Append a receipt, or drop it and count the drop when 16 are held (R124). -/
def appendReceipt (key : CueKey) (verdict : Verdict) (s : State) : State :=
  if s.access.receipts.length < receiptCapacity then
    s.onAccess fun a => { a with receipts := a.receipts ++ [{ key := key, verdict := verdict, time := s.now }] }
  else s.onPost fun u => { u with receiptsDropped := satInc u.receiptsDropped }

/-! ## Installs (R33 to R36) -/

/-- The channel is configured OUTPUT. -/
def State.isOutput (s : State) (c : ChannelNo) : Bool :=
  match s.chan c with
  | .output _ => true
  | .off | .input _ => false

/-- The verdict on a fire time (R33, orders 6 to 9), by the shared time as it stands when the record is taken: on a slew tick
before or after the step (R28, log 38). -/
def State.timeVerdict (s : State) (fire : Option Time) : Verdict :=
  match fire with
  | none => .held
  | some f =>
    if isPassed f s.shared then .stale
    else if isFar f s.shared then .far
    else if cueCapacity ≤ s.cues.held.length && isAhead f s.shared then .full
    else .held

/-- The verdict of a record (R33). -/
def State.installVerdict (s : State) (key : CueKey) (r : CueSpec) : Verdict :=
  if r.heldAction.isNone then .malformed
  else if !s.isOutput r.channel then .noChannel
  else if s.cues.holds key then .duplicate
  else match s.cues.leftBy key with
    | some .fired => .done
    | some .withdrawn => .withdrawn
    | none => s.timeVerdict r.fire

/-- Place a HELD record in the table (R35). -/
def placeHeld (path : InstallPath) (key : CueKey) (r : CueSpec) (action : HeldAction) (fire : Time) (s : State) :
    State :=
  s.onCues fun t => { t with
    held := placeEntry s.orderDistance
      { key := key, channel := r.channel, action := action, report := r.report, fire := fire, path := path,
        installNo := t.installCount } t.held
    installCount := t.installCount + 1 }

/-- Settle a HELD record: placed when its fire time is ahead (R35), else fired at install (R36). -/
def settleHeld (path : InstallPath) (key : CueKey) (r : CueSpec) (action : HeldAction) (s : State) : State :=
  match r.fire with
  | some f =>
    if isDue f s.shared then fireCue key r.channel action r.report path none (some f) false s
    else placeHeld path key r action f s
  | none => fireCue key r.channel action r.report path none none false s

/-- Settle one record (R33). -/
def settleRecord (path : InstallPath) (origin : StationNo) (r : CueRecord) (s : State) : State :=
  match s.installVerdict { origin := origin, serial := r.serial } r.spec, r.spec.heldAction with
  | .held, some action => settleHeld path { origin := origin, serial := r.serial } r.spec action s
  | _, _ => s

/-- One record of a CUE frame: its verdict, its effect and its receipt (R33, R37). -/
def takeLineRecord (origin : StationNo) (s : State) (r : CueRecord) : State :=
  appendReceipt { origin := origin, serial := r.serial }
    (s.installVerdict { origin := origin, serial := r.serial } r.spec) (settleRecord .line origin r s)

/-- The records of a CUE frame, one after another (R32). -/
def takeCues (origin : StationNo) (records : List CueRecord) (s : State) : State :=
  records.foldl (takeLineRecord origin) s

/-- The records of an accepted POST, one after another, with their self verdicts (R32, R37). -/
def installLocal (own : StationNo) : List CueRecord → State → State × List Verdict
  | [], s => (s, [])
  | r :: rest, s =>
    let verdict := s.installVerdict { origin := own, serial := r.serial } r.spec
    let (after, verdicts) := installLocal own rest (settleRecord .localPort own r s)
    (after, verdict :: verdicts)

/-! ## Withdrawals (R40) -/

/-- The verdict of a withdrawn serial (R40). -/
def State.withdrawVerdict (s : State) (key : CueKey) : Verdict :=
  if s.cues.holds key then .withdrawn
  else match s.cues.leftBy key with
    | some .fired => .tooLate
    | some .withdrawn => .withdrawn
    | none => .unknown

/-- Settle one serial: a held entry is removed, its key recorded WITHDRAWN (R40, R41). -/
def settleSerial (key : CueKey) (s : State) : State :=
  if s.cues.holds key then s.onCues (CueTable.leave key .withdrawn) else s

/-- One serial of a WITHDRAW frame: its verdict, its effect and its receipt (R40). -/
def takeLineSerial (origin : StationNo) (s : State) (serial : Byte) : State :=
  appendReceipt { origin := origin, serial := serial } (s.withdrawVerdict { origin := origin, serial := serial })
    (settleSerial { origin := origin, serial := serial } s)

/-- The serials of a WITHDRAW frame, one after another (R39). -/
def takeWithdrawals (origin : StationNo) (serials : List Byte) (s : State) : State :=
  serials.foldl (takeLineSerial origin) s

/-- The serials of an accepted local WITHDRAW, one after another, with their self verdicts (R39, R40). -/
def withdrawLocal (own : StationNo) : List Byte → State → State × List Verdict
  | [], s => (s, [])
  | serial :: rest, s =>
    let verdict := s.withdrawVerdict { origin := own, serial := serial }
    let (after, verdicts) := withdrawLocal own rest (settleSerial { origin := own, serial := serial } s)
    (after, verdict :: verdicts)

end Sys2Proof.Machine
end

