-- ==== Sys2Proof/Machine/Operands.lean ====
section
/-! DEFINITION. The layouts of the line and of the local port: codes, targets, cue records, marks,
receipts, frames and their bodies, the configuration record and the requests that carry a body
(Chapter 7, section 11.5). -/

namespace Sys2Proof.Machine

/-! ## Codes -/

/-- Timebase states, coded as in B1 (R131, 11.5). -/
def TbState.code : TbState → Nat
  | .solo => 0
  | .gathering => 1
  | .locked => 2
  | .holdover => 3

/-- The timebase state of a two-bit code (R131). -/
def tbStateOf (n : Nat) : TbState :=
  match n % 4 with
  | 0 => .solo
  | 1 => .gathering
  | 2 => .locked
  | _ => .holdover

/-- Verdict codes (R134). -/
def Verdict.code : Verdict → Nat
  | .held => 1
  | .duplicate => 2
  | .done => 3
  | .withdrawn => 4
  | .stale => 5
  | .far => 6
  | .full => 7
  | .noChannel => 8
  | .malformed => 9
  | .tooLate => 10
  | .unknown => 11

/-- The verdict of a code, none outside 1..11 (R134). -/
def verdictOf : Nat → Option Verdict
  | 1 => some .held
  | 2 => some .duplicate
  | 3 => some .done
  | 4 => some .withdrawn
  | 5 => some .stale
  | 6 => some .far
  | 7 => some .full
  | 8 => some .noChannel
  | 9 => some .malformed
  | 10 => some .tooLate
  | 11 => some .unknown
  | _ => none

/-- Answer codes on the local port: R134's, with 0 NONE and 12 GONE (11.5). -/
def Answer.code : Answer → Nat
  | .none => 0
  | .gone => 12
  | .given v => v.code

/-- Action codes (R132). -/
def ActionKind.code : ActionKind → Nat
  | .raise => 1
  | .lower => 2
  | .flip => 3
  | .pulse => 4
  | .train => 5

/-- The action of a code, none outside 1..5 (R132, R139). -/
def actionOf : Nat → Option ActionKind
  | 1 => some .raise
  | 2 => some .lower
  | 3 => some .flip
  | 4 => some .pulse
  | 5 => some .train
  | _ => none

/-- A width is carried for PULSE and TRAIN (R132). -/
def ActionKind.usesWidth : ActionKind → Bool
  | .pulse | .train => true
  | .raise | .lower | .flip => false

/-- A period and a count are carried for TRAIN (R132). -/
def ActionKind.usesPeriod : ActionKind → Bool
  | .train => true
  | .raise | .lower | .flip | .pulse => false

/-! ## Targets (R132) -/

/-- The target of its two characters; none where R139 fails it. -/
def targetOf (t1 t2 : Byte) : Option Target :=
  match t1.toNat with
  | 1 => if t2.toNat ≤ 31 then some (.one (t2.setWidth 5)) else none
  | 2 => if t2.toNat ≤ 7 then some (.group (t2.setWidth 3)) else none
  | 3 => if t2.toNat = 0 then some .all else none
  | _ => none

/-- The two characters of a target. -/
def Target.bytes : Target → List Byte
  | .one p => [byte 1, p.setWidth 8]
  | .group g => [byte 2, g.setWidth 8]
  | .all => [byte 3, byte 0]

/-! ## Cue records (R132) -/

/-- Take a field of n characters from the front. -/
def takeField (n : Nat) (bytes : List Byte) : Option (Nat × List Byte) :=
  if bytes.length < n then none else some (natOf (bytes.take n), bytes.drop n)

/-- Take a field that may be absent. -/
def takeOpt (present : Bool) (n : Nat) (bytes : List Byte) : Option (Option Nat × List Byte) :=
  if present then (takeField n bytes).map fun (v, rest) => (some v, rest) else some (none, bytes)

/-- A record from its descriptor on, and what follows it; none when its action is unknown or it runs past
the end (R132, R139). -/
def cueSpecOf : List Byte → Option (CueSpec × List Byte)
  | [] => none
  | d :: rest => do
    let action ← actionOf (d.toNat / 8 % 8)
    let (fire, rest) ← takeOpt (d.getLsbD 7) 6 rest
    let (width, rest) ← takeOpt action.usesWidth 3 rest
    let (period, rest) ← takeOpt action.usesPeriod 3 rest
    let (count, rest) ← takeOpt action.usesPeriod 1 rest
    some ({ channel := d.setWidth 3
            action := action
            report := d.getLsbD 6
            fire := fire.map (BitVec.ofNat 48)
            width := width.map (BitVec.ofNat 24)
            period := period.map (BitVec.ofNat 24)
            count := count.map (BitVec.ofNat 8) }, rest)

/-- The walk over the records of a CUE body: it lands exactly on the end after at most n records (R139). -/
def cueRecordsOf : Nat → List Byte → Option (List CueRecord)
  | _, [] => some []
  | 0, _ :: _ => none
  | n + 1, serial :: rest => do
    let (spec, rest) ← cueSpecOf rest
    let more ← cueRecordsOf n rest
    some ({ serial := serial, spec := spec } :: more)

/-- The walk over the records of a POST body, laid out without serials: exactly n records that land on
the end of the body (R209). -/
def localRecordsOf : Nat → List Byte → Option (List CueSpec)
  | 0, [] => some []
  | 0, _ :: _ => none
  | n + 1, bytes => do
    let (spec, rest) ← cueSpecOf bytes
    let more ← localRecordsOf n rest
    some (spec :: more)

/-- The descriptor of a record (R132, R147). -/
def CueSpec.descriptor (r : CueSpec) : Byte :=
  byte (r.channel.toNat + 8 * r.action.code + 64 * bitOf r.report + 128 * bitOf r.fire.isSome)

/-- A record as it is carried on the line: a field its action does not use is not carried (R147). -/
def CueRecord.bytes (r : CueRecord) : List Byte :=
  [r.serial, r.spec.descriptor]
    ++ (match r.spec.fire with | some t => bytesOf 6 t.toNat | none => [])
    ++ (if r.spec.action.usesWidth then bytesOf 3 (r.spec.width.getD 0).toNat else [])
    ++ (if r.spec.action.usesPeriod then bytesOf 3 (r.spec.period.getD 0).toNat ++ [r.spec.count.getD 0] else [])

/-! ## Marks (R133) -/

/-- A mark from its ten characters; none when a bit 6..7 of M3 is one (R139). -/
def markOf (b : List Byte) : Option MarkRecord :=
  match b with
  | [m1, m2, m3, m4, m5, m6, m7, m8, m9, m10] =>
    if 64 ≤ m3.toNat then none else some
      { seq := BitVec.ofNat 16 (natOf [m1, m2])
        channel := m3.setWidth 3
        fall := m3.getLsbD 3
        stamp := BitVec.ofNat 48 (natOf [m4, m5, m6, m7, m8, m9])
        tbState := tbStateOf (m3.toNat / 16)
        suppressed := m10 }
  | _ => none

/-- The marks of a MARK body: exactly n of them (R133, R139). -/
def marksOf : Nat → List Byte → Option (List MarkRecord)
  | 0, [] => some []
  | 0, _ :: _ => none
  | n + 1, bytes => do
    let mark ← markOf (bytes.take 10)
    let more ← marksOf n (bytes.drop 10)
    some (mark :: more)

/-- A mark's ten characters (R133). -/
def MarkRecord.bytes (m : MarkRecord) : List Byte :=
  bytesOf 2 m.seq.toNat ++ [byte (m.channel.toNat + 8 * bitOf m.fall + 16 * m.tbState.code)]
    ++ bytesOf 6 m.stamp.toNat ++ [m.suppressed]

/-! ## Receipts (R134) -/

/-- A receipt as it travels: origin, serial and verdict. -/
structure Receipt where
  key : CueKey
  verdict : Verdict
  deriving DecidableEq, Repr

/-- The receipts of a trailer: exactly n; none where R139 fails it. -/
def receiptsOf : Nat → List Byte → Option (List Receipt)
  | 0, [] => some []
  | n + 1, origin :: serial :: code :: rest => do
    if 32 ≤ origin.toNat then none else
    let verdict ← verdictOf code.toNat
    let more ← receiptsOf n rest
    some ({ key := { origin := origin.setWidth 5, serial := serial }, verdict := verdict } :: more)
  | _, _ => none

/-- The three characters of a receipt (R134). -/
def HeldReceipt.bytes (r : HeldReceipt) : List Byte :=
  [r.key.origin.setWidth 8, r.key.serial, byte r.verdict.code]

/-! ## Frames (R129 to R133, R139) -/

/-- The fields of a BEAT body (R131). -/
structure BeatBody where
  tbState : TbState
  leaving : Bool
  beatCode : Byte
  groups : GroupSet
  stamp : Time
  spread : Count16
  deriving DecidableEq, Repr

/-- A frame's body by its kind (R130 to R133). -/
inductive LineBody where
  | beat (body : BeatBody)
  | cue (target : Target) (records : List CueRecord)
  | withdraw (target : Target) (serials : List Byte)
  | mark (target : Target) (loss : Byte) (marks : List MarkRecord)
  deriving DecidableEq, Repr

/-- A frame that passes the content test of R139. -/
structure LineFrame where
  source : StationNo
  sequence : Byte
  body : LineBody
  receipts : List Receipt
  deriving DecidableEq, Repr

/-- The frame kind character H1 (R130). -/
def LineBody.kindCode : LineBody → Byte
  | .beat _ => 1
  | .cue _ _ => 2
  | .withdraw _ _ => 3
  | .mark _ _ _ => 4

/-- A BEAT body (R131, R139). -/
def beatBodyOf : List Byte → Option LineBody
  | [b1, b2, b3, b4, b5, b6, b7, b8, b9, b10, b11] =>
    if b1.toNat / 4 % 32 ≠ 0 ∨ 5 < b2.toNat then none else some <| .beat
      { tbState := tbStateOf b1.toNat
        leaving := b1.getLsbD 7
        beatCode := b2
        groups := b3
        stamp := BitVec.ofNat 48 (natOf [b4, b5, b6, b7, b8, b9])
        spread := BitVec.ofNat 16 (natOf [b10, b11]) }
  | _ => none

/-- A CUE body (R132, R139): 1 to 4 records. -/
def cueBodyOf : List Byte → Option LineBody
  | t1 :: t2 :: rest => do
    let target ← targetOf t1 t2
    let records ← cueRecordsOf 4 rest
    if records.isEmpty then none else some (.cue target records)
  | _ => none

/-- A WITHDRAW body (R133, R139). -/
def withdrawBodyOf : List Byte → Option LineBody
  | t1 :: t2 :: count :: serials => do
    let target ← targetOf t1 t2
    if count.toNat = 0 ∨ 8 < count.toNat ∨ serials.length ≠ count.toNat then none
    else some (.withdraw target serials)
  | _ => none

/-- A MARK body (R133, R139). -/
def markBodyOf : List Byte → Option LineBody
  | t1 :: t2 :: loss :: count :: rest => do
    let target ← targetOf t1 t2
    if count.toNat = 0 ∨ 6 < count.toNat then none else
    let marks ← marksOf count.toNat rest
    some (.mark target loss marks)
  | _ => none

/-- A body by its kind (R130, R139). -/
def lineBodyOf (kind : Byte) (body : List Byte) : Option LineBody :=
  match kind.toNat with
  | 1 => beatBodyOf body
  | 2 => cueBodyOf body
  | 3 => withdrawBodyOf body
  | 4 => markBodyOf body
  | _ => none

/-- The declared length of a frame, known from the fifth header character (R129). -/
def declaredLength (bodyLength receiptCount : Byte) : Nat :=
  1 + 5 + bodyLength.toNat + 3 * receiptCount.toNat + 2

/-- The content test of R139 over the characters of a frame, the lead first: none is MALFORMED. -/
def lineFrameOf : List Byte → Option LineFrame
  | _lead :: h1 :: h2 :: h3 :: h4 :: h5 :: rest => do
    if 32 ≤ h2.toNat ∨ 8 < h5.toNat then none else
    let body ← lineBodyOf h1 (rest.take h4.toNat)
    let receipts ← receiptsOf h5.toNat ((rest.drop h4.toNat).take (3 * h5.toNat))
    some { source := h2.setWidth 5, sequence := h3, body := body, receipts := receipts }
  | _ => none

/-! ## The CRC (R135) -/

/-- Shift the check register by one place; if the bit shifted out differs from the entering data bit,
combine it with 0x1021 (R135). -/
def crcBit (reg : BitVec 16) (data : Bool) : BitVec 16 :=
  if reg.msb != data then (reg <<< 1) ^^^ 0x1021#16 else reg <<< 1

/-- A character enters the register most significant bit first (R135). -/
def crcByte (reg : BitVec 16) (c : Byte) : BitVec 16 :=
  [7, 6, 5, 4, 3, 2, 1, 0].foldl (fun r i => crcBit r (c.getLsbD i)) reg

/-- The register over some characters, set to all ones before the first (R135). -/
def crc (chars : List Byte) : BitVec 16 := chars.foldl crcByte 0xFFFF#16

/-! ## The configuration record (10.3, 11.5) -/

/-- The i-th character of a body, counted from 1. -/
def charAt (body : List Byte) (i : Nat) : Byte := body.getD (i - 1) 0

/-- The two-character field that begins at the i-th character. -/
def fieldAt (body : List Byte) (i : Nat) : Count16 :=
  BitVec.ofNat 16 (natOf [charAt body i, charAt body (i + 1)])

/-- A share target (11.5): bits 4..5 its kind, bits 0..2 the group, zero for NONE and ALL; the rest zero. -/
def shareOf (b : Byte) : Option Share :=
  if b.getLsbD 3 || b.getLsbD 6 || b.getLsbD 7 then none else
  match b.toNat / 16 with
  | 0 => if b.toNat % 8 = 0 then some .none else none
  | 1 => some (.group (b.setWidth 3))
  | 2 => if b.toNat % 8 = 0 then some .all else none
  | _ => none

/-- The number of the first field of channel c that is not valid (R192); the fields its mode does not use
are not checked. -/
def channelFault (body : List Byte) (c : Nat) : Option Nat :=
  match (charAt body (11 + 7 * c)).toNat with
  | 0 => none
  | 1 => if 1 < (charAt body (12 + 7 * c)).toNat then some (10 + 6 * c) else none
  | 2 =>
    if 2 < (charAt body (13 + 7 * c)).toNat then some (11 + 6 * c)
    else if 1 < (charAt body (16 + 7 * c)).toNat then some (13 + 6 * c)
    else if (shareOf (charAt body (17 + 7 * c))).isNone then some (14 + 6 * c)
    else none
  | _ => some (9 + 6 * c)

/-- The number of the first field that is not valid, in ascending order (R192). -/
def configFault (body : List Byte) : Option Nat :=
  let jump := (fieldAt body 3).toNat
  let lock := (fieldAt body 5).toNat
  if 5 < (charAt body 2).toNat then some 2
  else if jump < 16 then some 3
  else if lock < 1 ∨ 4095 < lock ∨ jump < 4 * lock then some 4
  else if (charAt body 7).toNat < 1 then some 5
  else if (charAt body 9).toNat < 1 ∨ 48 < (charAt body 9).toNat then some 7
  else if (charAt body 10).toNat < 1 then some 8
  else (List.range 8).findSome? (channelFault body)

/-- The edge sense of a valid code (11.5). -/
def senseOf (b : Byte) : EdgeSense :=
  match b.toNat with
  | 0 => .rising
  | 1 => .falling
  | _ => .both

/-- The mode of channel c with the settings it uses, from a valid record (11.5). -/
def channelModeOf (body : List Byte) (c : Nat) : ChannelMode :=
  match (charAt body (11 + 7 * c)).toNat with
  | 0 => .off
  | 1 => .output ((charAt body (12 + 7 * c)).toNat == 1)
  | _ => .input
    { sense := senseOf (charAt body (13 + 7 * c))
      holdoff := fieldAt body (14 + 7 * c)
      localReport := (charAt body (16 + 7 * c)).toNat == 1
      share := (shareOf (charAt body (17 + 7 * c))).getD .none }

/-- The record of a valid body (11.5). -/
def configOf (body : List Byte) : ConfigRecord where
  groups := charAt body 1
  beatCode := charAt body 2
  jump := fieldAt body 3
  lock := fieldAt body 5
  holdoverLimit := charAt body 7
  lineDelay := charAt body 8
  threshold := charAt body 9
  linger := charAt body 10
  modes := Vector.ofFn fun c => channelModeOf body c.val

/-- R209: a CONFIGURE body is 66 characters. -/
def configLength : Nat := 66

/-! ## POST and WITHDRAW bodies (11.5) -/

/-- A sound POST body: target, record count 1..4, and records that land exactly on its end (R209). -/
def postOf : List Byte → Option (Target × List CueSpec)
  | t1 :: t2 :: count :: rest => do
    let target ← targetOf t1 t2
    if count.toNat = 0 ∨ 4 < count.toNat then none else
    let records ← localRecordsOf count.toNat rest
    some (target, records)
  | _ => none

/-- A sound WITHDRAW body: target, count 1..8, and that many serials (R209). -/
def withdrawOf : List Byte → Option (Target × List Byte)
  | t1 :: t2 :: count :: serials => do
    let target ← targetOf t1 t2
    if count.toNat = 0 ∨ 8 < count.toNat ∨ serials.length ≠ count.toNat then none
    else some (target, serials)
  | _ => none

end Sys2Proof.Machine
end

