-- ==== Sys2Proof/Machine/Postings.lean ====
section
/-! DEFINITION. The posting list: finishing, receipts, windows, deadlines and notices (Chapter 6). -/

namespace Sys2Proof.Machine

/-! ## One posting -/

/-- The serials of a posting, one per record or as named (6.1). -/
def Posting.serials (p : Posting) : List Byte :=
  match p.body with
  | .cue records => records.map CueRecord.serial
  | .withdraw serials => serials

/-- Whether the posting is a WITHDRAW. -/
def Posting.isWithdraw (p : Posting) : Bool :=
  match p.body with
  | .cue _ => false
  | .withdraw _ => true

/-- A station's verdicts are all good: HELD, DUPLICATE or WITHDRAWN (R123). -/
def Expected.isGood (e : Expected) : Bool :=
  e.answers.all fun a => a == .given .held || a == .given .duplicate || a == .given .withdrawn

/-- Every expected station has a verdict or GONE for every record or serial (R117). -/
def Posting.answered (p : Posting) : Bool :=
  p.expected.all fun e => e.answers.all fun a => a != .none

/-- A station is in the expected set. -/
def Posting.expects (p : Posting) (station : StationNo) : Bool :=
  p.expected.any fun e => e.station == station

/-- The POSTING_DONE report of a posting (R123). -/
def Posting.doneReport (p : Posting) (outcome : PostOutcome) : DoneReport where
  id := p.id
  isWithdraw := p.isWithdraw
  outcome := outcome
  sent := p.sent
  count := p.serials.length
  selfVerdicts := p.selfVerdicts
  goodCount := (p.expected.filter Expected.isGood).length
  others := p.expected.filter fun e => !e.isGood

/-! ## The list -/

/-- The posting with an id, if the list holds one. -/
def State.posting? (s : State) (id : Byte) : Option Posting :=
  s.post.list.find? fun p => p.id == id

/-- Write a posting back in its place. -/
def setPosting (p : Posting) (s : State) : State :=
  s.onPost fun u => { u with list := u.list.map fun q => if q.id == p.id then p else q }

/-- The frame in flight is this posting's, and the posting has not finished since (R112). -/
def State.inTransmission (s : State) (id : Byte) : Bool :=
  match s.access.flight with
  | some f => f.kind == .posting id false && !f.lost || f.kind == .posting id true && !f.lost
  | none => false

/-- The record of a frame in flight once its posting has left the list (R168, log 25). -/
def Flight.losePosting (id : Byte) (f : Flight) : Flight :=
  match f.kind with
  | .posting i _ => if i == id then { f with lost := true } else f
  | .leavingBeat | .dueBeat | .mark _ _ | .receiptsBeat => f

/-- Finish a posting in one event (R122): it leaves the list with its pending frame and its reservation, and
its POSTING_DONE takes the reserved place in the queue (R107). -/
def finishPosting (id : Byte) (outcome : PostOutcome) (s : State) : State :=
  match s.posting? id with
  | none => s
  | some p =>
    let s := s.onPost fun u => { u with list := u.list.eraseP fun q => q.id == id }
    let s := s.onAccess fun a => { a with flight := a.flight.map (Flight.losePosting id) }
    enqueue (.postingDone (p.doneReport outcome)) s

/-- The completion test (R117): COMPLETE when every verdict is in and the posting has been sent. -/
def completionTest (id : Byte) (s : State) : State :=
  match s.posting? id with
  | none => s
  | some p => if 1 ≤ p.sent ∧ p.answered then finishPosting id .complete s else s

/-- Every posting of the list finishes ABANDONED, in list order (R120). -/
def abandonPostings (s : State) : State :=
  (s.post.list.map Posting.id).foldl (fun s id => finishPosting id .abandoned s) s

/-! ## Notices -/

/-- The verdicts a station still lacks become GONE (R118). -/
def Posting.markGone (station : StationNo) (p : Posting) : Posting :=
  { p with expected := p.expected.map fun e =>
      if e.station == station then
        { e with answers := e.answers.map fun a => if a == .none then .gone else a }
      else e }

/-- The ABSENT notice at one posting: its missing verdicts become GONE and the completion test is made. -/
def absentAtPosting (station : StationNo) (id : Byte) (s : State) : State :=
  match s.posting? id with
  | none => s
  | some p => completionTest id (setPosting (p.markGone station) s)

/-- The ABSENT notice (R118), at every posting that expects the station, in list order. -/
def absentNotice (station : StationNo) (s : State) : State :=
  ((s.post.list.filter fun p => p.expects station).map Posting.id).foldl
    (fun s id => absentAtPosting station id s) s

/-- The verdicts that belong to a posting's kind (R116). -/
def Posting.takesVerdict (p : Posting) (v : Verdict) : Bool :=
  match p.body, v with
  | .cue _, .tooLate | .cue _, .unknown => false
  | .cue _, _ => true
  | .withdraw _, .withdrawn | .withdraw _, .tooLate | .withdraw _, .unknown => true
  | .withdraw _, _ => false

/-- Store a station's verdict for the record or serial that carries a serial, replacing what stood (R116). -/
def Posting.storeVerdict (station : StationNo) (serial : Byte) (v : Verdict) (p : Posting) : Posting :=
  { p with expected := p.expected.map fun e =>
      if e.station == station then
        { e with answers := List.zipWith (fun s a => if s == serial then .given v else a) p.serials e.answers }
      else e }

/-- Take one receipt of a trailer (R116): matched, its verdict is stored and the completion test made;
otherwise it is ignored. -/
def takeReceipt (receipter : StationNo) (r : Receipt) (s : State) : State :=
  if r.key.origin ≠ s.sig.own then s else
  match s.post.list.find? fun p => p.serials.contains r.key.serial with
  | none => s
  | some p =>
    if p.expects receipter ∧ p.takesVerdict r.verdict then
      completionTest p.id (setPosting (p.storeVerdict receipter r.key.serial r.verdict) s)
    else s

/-- The receipts of a trailer, in trailer order (R116). -/
def takeReceipts (receipter : StationNo) (rs : List Receipt) (s : State) : State :=
  rs.foldl (fun s r => takeReceipt receipter r s) s

/-- The sent notice (R113). -/
def sentNotice (id : Byte) (s : State) : State :=
  match s.posting? id with
  | none => s
  | some p =>
    completionTest id (setPosting { p with
      sent := p.sent + 1
      state := .awaiting
      windowEnd := some (plusTicks s.now (2 * s.beat))
      collisions := 0 } s)

/-! ## Windows and deadlines -/

/-- The response window of an AWAITING posting has expired (R113, R114). -/
def State.windowExpired (s : State) (p : Posting) : Bool :=
  match p.state, p.windowEnd with
  | .awaiting, some e => reachedTime s.now e
  | _, _ => false

/-- R114: a posting is resent while fewer than 4 transmissions were made and its deadline is absent or ahead. -/
def State.mayResend (s : State) (p : Posting) : Bool :=
  p.sent < maxTransmissions && match p.deadline with
    | none => true
    | some d => isAhead d s.shared

/-- The deadline of a WAITING posting whose frame is not in transmission reads passed (R111, R114).  On a
tick on which a jump was made it is compared at the next tick (log 17); on a slew tick, after the step. -/
def State.deadlinePassed (s : State) (p : Posting) : Bool :=
  match p.state, p.deadline with
  | .waiting, some d => isPassed d s.shared && !s.inTransmission p.id && !s.tb.jumped && !s.slewDue
  | _, _ => false

/-- The expiry of a response window (R114): resend, or finish INCOMPLETE. -/
def expireWindow (id : Byte) (s : State) : State :=
  match s.posting? id with
  | none => s
  | some p =>
    if !s.windowExpired p then s
    else if s.mayResend p then setPosting { p with state := .waiting, windowEnd := none } s
    else finishPosting id .incomplete s

/-- A passed deadline (R111, R114): EXPIRED when never sent, INCOMPLETE when waiting for a resend. -/
def passDeadline (id : Byte) (s : State) : State :=
  match s.posting? id with
  | none => s
  | some p =>
    if !s.deadlinePassed p then s
    else finishPosting id (if p.sent = 0 then .expired else .incomplete) s

/-- RESPONSE_WINDOW_EXPIRY (R114). -/
def execResponseWindowExpiry (id : Byte) (s : State) : Host.Outcome State Fault Refusal :=
  .next (expireWindow id s)

/-- DEADLINE_PASSED (R111, R114). -/
def execDeadlinePassed (id : Byte) (s : State) : Host.Outcome State Fault Refusal :=
  .next (passDeadline id s)

end Sys2Proof.Machine
end

