-- ==== Sys2Proof/Machine/Accept.lean ====
section
/-! DEFINITION. The acceptance of postings: the checks of POST and WITHDRAW, serials and ids, expected sets, self
installs and what a posting comes to at once (6.2, 6.3). -/

namespace Sys2Proof.Machine

/-! ## Serials and ids (R105, R106) -/

/-- The serials carried by the postings of the list. -/
def State.carriedSerials (s : State) : List Byte := s.post.list.flatMap Posting.serials

/-- The first value from a counter on that is not in use; one is always found (R106). -/
def nextFree (used : List Byte) (counter : Byte) : Byte :=
  (((List.range 256).map fun k => counter + byte k).find? fun v => !used.contains v).getD counter

/-- Take n serials from the counter, each in use from then on: the serials, and the counter after the last
(R106). -/
def takeSerials (used : List Byte) : Nat → Byte → List Byte × Byte
  | 0, counter => ([], counter)
  | n + 1, counter =>
    let v := nextFree used counter
    let (rest, after) := takeSerials (v :: used) n (v + 1)
    (v :: rest, after)

/-- The index, from 1, of the first serial of a WITHDRAW that is carried by a posting or named earlier (R105). -/
def serialFault (carried : List Byte) : Nat → List Byte → Option Nat
  | _, [] => none
  | i, v :: rest => if carried.contains v then some i else serialFault (v :: carried) (i + 1) rest

/-- The index, from 1, of the first record that fails the MALFORMED test (R104). -/
def recordFault : Nat → List CueSpec → Option Nat
  | _, [] => none
  | i, r :: rest => if r.heldAction.isNone then some i else recordFault (i + 1) rest

/-! ## The checks (R104) -/

/-- The checks before BAD_RECORD, in order (R104). -/
def State.postRefusal (s : State) : Option Status :=
  if s.control.station ≠ .active then some .notActive
  else if postingCapacity ≤ s.post.list.length then some .listFull
  else if reportCapacity ≤ s.reportSum then some .noRoom
  else none

/-! ## The expected set (R108) -/

/-- The peers a GROUP or ALL target expects: PRESENT, and in the group (R108). -/
def State.expectedPeer (s : State) (target : Target) (p : StationNo) : Bool :=
  match s.peer? p with
  | none => false
  | some e => e.state == .present && match target with
    | .group g => e.groups.getLsbD g.toNat
    | .all => true
    | .one _ => false

/-- The roster shows the station ABSENT. -/
def State.isAbsent (s : State) (p : StationNo) : Bool :=
  match s.peer? p with
  | some e => e.state == .absent
  | none => false

/-- The expected set, in ascending order of station number, each station with n answers: none yet, or GONE for
ONE s with s ABSENT (R108). -/
def State.expectedSet (s : State) (target : Target) (n : Nat) : List Expected :=
  match target with
  | .one p =>
    if p = s.sig.own then []
    else [{ station := p, answers := List.replicate n (if s.isAbsent p then .gone else .none) }]
  | .group _ | .all =>
    (stations.filter (s.expectedPeer target)).map fun p => { station := p, answers := List.replicate n .none }

/-! ## The deadline (R111) -/

/-- The earliest of some fire times by ahead distance from a shared time (R111, log 11). -/
def earliest (now : Time) : List Time → Option Time
  | [] => none
  | t :: rest =>
    match earliest now rest with
    | none => some t
    | some d => if ahead t now ≤ ahead d now then some t else some d

/-- The deadline of a posting (R111). -/
def State.deadlineOf (s : State) : PostBody → Option Time
  | .cue records => earliest s.shared (records.filterMap fun r => r.spec.fire)
  | .withdraw _ => none

/-! ## Acceptance (R106 to R110) -/

/-- The number of records or serials. -/
def PostBody.size : PostBody → Nat
  | .cue records => records.length
  | .withdraw serials => serials.length

/-- The posting as it joins the list: WAITING, nothing sent (R106, R108, R110, R111). -/
def State.newPosting (s : State) (id : Byte) (body : PostBody) (target : Target) : Posting where
  id := id
  body := body
  target := target
  expected := s.expectedSet target body.size
  selfVerdicts := none
  sent := 0
  windowEnd := none
  deadline := s.deadlineOf body
  state := .waiting
  collisions := 0

/-- The id the next posting takes (R106). -/
def State.freeId (s : State) : Byte := nextFree (s.post.list.map Posting.id) s.post.nextId

/-- The posting joins the list, which reserves its report's place (R106, R107). -/
def joinList (p : Posting) (s : State) : State :=
  s.onPost fun u => { u with list := u.list ++ [p], nextId := p.id + 1 }

/-- The self install or self withdrawal of a posting, with its verdicts (R109). -/
def settleSelf (body : PostBody) (s : State) : State × List Verdict :=
  match body with
  | .cue records => installLocal s.sig.own records s
  | .withdraw serials => withdrawLocal s.sig.own serials s

/-- A posting whose target includes the station is settled in the own cue table (R109). -/
def takeSelf (p : Posting) (s : State) : State :=
  if s.includesSelf p.target then
    let (after, verdicts) := settleSelf p.body s
    setPosting { p with selfVerdicts := some verdicts } after
  else s

/-- A deadline that is present and passed (R110). -/
def State.alreadyPassed (s : State) (deadline : Option Time) : Bool :=
  match deadline with
  | some d => isPassed d s.shared
  | none => false

/-- What an accepted posting comes to in the acceptance event (R110). -/
def settlePosting (p : Posting) (s : State) : State :=
  if p.target = .one s.sig.own then finishPosting p.id .complete s
  else if s.alreadyPassed p.deadline then finishPosting p.id .expired s
  else s

/-- Take a checked posting: id, reservation, expected set, self install, and what it comes to (R106 to R110). -/
def takePosting (target : Target) (body : PostBody) (s : State) : State :=
  let p := s.newPosting s.freeId body target
  settlePosting p (takeSelf p (joinList p s))

/-- The reply to an accepted posting: its id and its serials (R110). -/
def acceptedReply (id : Byte) (serials : List Byte) : Reply where
  status := .ok
  body := id :: serials

/-- The records of a POST with the serials they take (R106). -/
def withSerials (serials : List Byte) (records : List CueSpec) : List CueRecord :=
  List.zipWith (fun v r => { serial := v, spec := r }) serials records

/-- A refusal, which changes nothing (R104). -/
def Reply.refusal (status : Status) : Reply where
  status := status
  body := []

/-- A refusal that names a field or an index (R210). -/
def Reply.refusalAt (status : Status) (index : Nat) : Reply where
  status := status
  body := [byte index]

/-- A sound POST request: its reply and the state after it (R104, R106). -/
def takePost (target : Target) (records : List CueSpec) (s : State) : State × Reply :=
  match s.postRefusal with
  | some status => (s, Reply.refusal status)
  | none =>
    match recordFault 1 records with
    | some i => (s, Reply.refusalAt .badRecord i)
    | none =>
      let (serials, counter) := takeSerials s.carriedSerials records.length s.post.nextSerial
      (takePosting target (.cue (withSerials serials records))
          (s.onPost fun u => { u with nextSerial := counter }),
        acceptedReply s.freeId serials)

/-- A sound WITHDRAW request: its reply and the state after it (R104, R105). -/
def takeWithdraw (target : Target) (serials : List Byte) (s : State) : State × Reply :=
  match s.postRefusal with
  | some status => (s, Reply.refusal status)
  | none =>
    match serialFault s.carriedSerials 1 serials with
    | some i => (s, Reply.refusalAt .badRecord i)
    | none => (takePosting target (.withdraw serials) s, acceptedReply s.freeId serials)

end Sys2Proof.Machine
end

