-- ==== Sys2Proof/Machine/Reports.lean ====
section
/-! DEFINITION. The layouts of reports and replies on the local port (11.5), and the packing of a FETCH
reply (R214). -/

namespace Sys2Proof.Machine

/-- Status codes (11.5). -/
def Status.code : Status → Byte
  | .ok => 0
  | .notPrep => 1
  | .noConfig => 2
  | .badConfig => 3
  | .notActive => 4
  | .listFull => 5
  | .noRoom => 6
  | .badRecord => 7
  | .badRequest => 8
  | .short => 9
  | .nop => 10

/-- Station state codes (11.5). -/
def StationState.code : StationState → Nat
  | .prep => 0
  | .listen => 1
  | .active => 2
  | .muted => 3
  | .closing => 4

/-- Roster state codes (11.5). -/
def PeerState.code : PeerState → Nat
  | .absent => 0
  | .joining => 1
  | .present => 2
  | .silent => 3

/-- Cause codes of STATION_STATE (11.5). -/
def Cause.code : Cause → Nat
  | .openLine => 1
  | .listenEnd => 2
  | .twin => 3
  | .unmute => 4
  | .close => 5
  | .left => 6
  | .leaveDropped => 7

/-- Cause codes of ROSTER_CHANGE (11.5). -/
def RosterCause.code : RosterCause → Nat
  | .beat => 1
  | .sweep => 2
  | .leaving => 3

/-- Outcome codes of POSTING_DONE (11.5). -/
def PostOutcome.code : PostOutcome → Nat
  | .complete => 1
  | .incomplete => 2
  | .expired => 3
  | .lineFailed => 4
  | .abandoned => 5

/-- Frame kind codes of TROUBLE (11.5). -/
def TroubleKind.code : TroubleKind → Nat
  | .dueBeat => 1
  | .receiptsBeat => 2
  | .leavingBeat => 3
  | .cue => 4
  | .withdraw => 5
  | .mark => 6

/-- Verdicts packed two to a character, the first in bits 0..3 (11.5). -/
def packCodes : List Nat → List Byte
  | [] => []
  | [a] => [byte a]
  | a :: b :: rest => byte (a + 16 * b) :: packCodes rest

/-- A six-character field that may be absent, sent as zero then (11.5). -/
def timeBytes (t : Option Time) : List Byte := bytesOf 6 (t.getD 0).toNat

/-- A cue key's two characters, zero when absent (11.5). -/
def keyBytes (k : Option CueKey) : List Byte :=
  match k with
  | some k => [k.origin.setWidth 8, k.serial]
  | none => [0, 0]

/-- A CUE_FIRED body (11.5). -/
def FiredReport.bytes (f : FiredReport) : List Byte :=
  keyBytes (some f.key)
    ++ [byte (f.channel.toNat + 8 * bitOf (f.path == .localPort) + 16 * bitOf f.installNo.isSome
          + 32 * bitOf f.fire.isSome + 64 * bitOf f.late),
        byte f.tbState.code]
    ++ bytesOf 2 (f.installNo.getD 0).toNat ++ timeBytes f.fire ++ bytesOf 6 f.time.toNat

/-- A CUE_CUT body (11.5); bit 3 is set for the reason JUMP. -/
def CutReport.bytes (c : CutReport) : List Byte :=
  keyBytes (some c.key)
    ++ [byte (c.channel.toNat + 8 * bitOf c.cutting.isNone + 16 * bitOf c.cutting.isSome),
        byte c.completed, byte c.count]
    ++ keyBytes c.cutting ++ bytesOf 6 c.time.toNat

/-- A POSTING_DONE body (11.5). -/
def DoneReport.bytes (d : DoneReport) : List Byte :=
  [d.id, byte (d.outcome.code + 16 * bitOf d.isWithdraw + 32 * bitOf d.selfVerdicts.isSome), byte d.sent,
    byte d.count]
    ++ (match d.selfVerdicts with | some vs => packCodes (vs.map Verdict.code) | none => [])
    ++ [byte d.goodCount, byte d.others.length]
    ++ d.others.flatMap fun e => e.station.setWidth 8 :: packCodes (e.answers.map Answer.code)

/-- The kind character of a report (11.5). -/
def ReportBody.kindCode : ReportBody → Nat
  | .localMark _ => 1
  | .peerMark _ _ _ => 2
  | .cueFired _ => 3
  | .cueCut _ => 4
  | .postingDone _ => 5
  | .rosterChange _ _ _ _ => 6
  | .timebaseChange _ _ _ _ => 7
  | .lineHeld _ | .lineTrouble _ _ _ | .lineTwin _ _ _ | .lineMismatch _ _ _ => 8
  | .stationState _ _ _ => 9

/-- A number in a signed field of some width, two's complement; a free value where it does not fit (11.5, log 27). -/
def signedField {w : Nat} (free : Int → BitVec w) (x : Int) : BitVec w :=
  if -(2 ^ (w - 1)) ≤ x ∧ x < 2 ^ (w - 1) then BitVec.ofInt w x else free x

/-- The body of a report (11.5). -/
def ReportBody.bytes : ReportBody → List Byte
  | .localMark mark => mark.bytes
  | .peerMark origin mark loss => [origin.setWidth 8] ++ mark.bytes ++ [loss]
  | .cueFired fired => fired.bytes
  | .cueCut cut => cut.bytes
  | .postingDone done => done.bytes
  | .rosterChange station old new cause =>
    [station.setWidth 8, byte (old.code + 16 * new.code), byte cause.code]
  | .timebaseChange old new correction spread =>
    [byte (old.code + 16 * new.code)] ++ bytesOf 6 (signedField Config.freeCorrection correction).toNat ++ bytesOf 2 spread.toNat
  | .lineHeld shared => [byte 1] ++ bytesOf 6 shared.toNat
  | .lineTrouble kind posting marks => [byte 2, byte kind.code, posting, byte marks]
  | .lineTwin count kind sequence => [byte 3, count, kind, sequence]
  | .lineMismatch station heard own => [byte 4, station.setWidth 8, heard, own]
  | .stationState old new cause => [byte (old.code + 16 * new.code), byte cause.code]

/-- A report as FETCH gives it: kind, lost-before count, body length, body (11.5). -/
def Report.bytes (r : Report) : List Byte :=
  [byte r.body.kindCode, r.lostBefore, byte r.body.bytes.length] ++ r.body.bytes

/-- The size of a report: 3 header characters plus its body (R214). -/
def Report.size (r : Report) : Nat := r.bytes.length

/-- How many reports a FETCH takes from the head: fewer than 4 taken so far, and the next would not bring
the total above 240 characters (R214). -/
def fetchCount : Nat → Nat → List Report → Nat
  | _, _, [] => 0
  | 0, _, _ => 0
  | n + 1, used, r :: rest => if used + r.size ≤ 240 then 1 + fetchCount n (used + r.size) rest else 0

/-- The body of a FETCH reply (R214): the number of reports, then the reports in queue order. -/
def fetchBody (taken : List Report) : List Byte :=
  byte taken.length :: taken.flatMap Report.bytes

/-- The characters of a reply as an exchange carries it out (R207, 11.5). -/
def Reply.bytes (r : Reply) (station : StationState) (queueCount : Nat) : List Byte :=
  [r.status.code, byte station.code, byte queueCount, byte r.body.length] ++ r.body

end Sys2Proof.Machine
end

