-- ==== Sys2Proof/Machine/Flags.lean ====
section
/-! DEFINITION. The outputs and status flags the part shows: LATTN, LDE, LTX, the channel pins, LMISO, the
levels of LRX, and the slot the line access unit counts. -/

namespace Sys2Proof.Machine

/-! ## Attention (R216 to R219) -/

/-- The attention threshold in force: 1 while no record is held (R219). -/
def State.threshold (s : State) : Nat :=
  match s.control.config with
  | some c => c.threshold.toNat
  | none => 1

/-- LATTN (R218). -/
def State.lattn (s : State) : Bool :=
  s.threshold ≤ s.port.queue.length || 0 < s.port.urgent || s.port.lingerFlag

/-- The linger time in ticks: units of 100 microseconds (R217). -/
def lingerTicks (c : ConfigRecord) : Nat := 1000 * c.linger.toNat

/-! ## LMISO (R207) -/

/-- The n-th character the exchange in progress carries out, counted from 0; 0x00 once the reply's length
is exhausted, and none (high-impedance) while LCS is high (R207). -/
def State.misoChar (s : State) (n : Nat) : Option Byte :=
  s.port.exchange.map fun chars => chars.getD n 0

/-- The bits of a character as they are clocked, the most significant first, in both directions (R207). -/
def clockedBits (c : Byte) : List Bool := [7, 6, 5, 4, 3, 2, 1, 0].map fun i => c.getLsbD i

/-- The level of LMISO for the n-th bit clocked in the exchange in progress, the first one standing from the fall of LCS;
none (high-impedance) while LCS is high (R207). -/
def State.misoBit (s : State) (n : Nat) : Option Bool :=
  (s.misoChar (n / 8)).map fun c => (clockedBits c).getD (n % 8) false

/-! ## The channel pins (R52, R53, R68) -/

/-- What a channel pin shows. -/
inductive PinDrive where
  | highImpedance
  | driven (level : Bool)
  deriving DecidableEq, Repr

/-- The pin of a channel: driven at its level when OUTPUT, else high-impedance (R53, 3.1). -/
def State.pinDrive (s : State) (c : ChannelNo) : PinDrive :=
  match s.chan c with
  | .output o => .driven o.level
  | .off | .input _ => .highImpedance

/-! ## The line pins (R182, R183) -/

/-- LDE (R183). -/
def State.lde (s : State) : Bool := s.sig.driving

/-- The level of bit j of a character: low start bit, data least significant first, high stop bit (R182). -/
def charBit (c : Byte) (j : Nat) : Bool :=
  if j = 0 then false else if j ≤ 8 then c.getLsbD (j - 1) else true

/-- LTX at a sample place of the present tick: the character and bit the start tick gives, high between
frames and whenever LDE is low (R182). -/
def State.ltx (s : State) (place : Nat) : Bool :=
  match s.sig.driving, s.access.flight, s.frames.copy with
  | true, some f, some chars =>
    let bit := (4 * elapsed s.now f.start + place) / s.samplesPerBit
    match chars[bit / 10]? with
    | some c => charBit c (bit % 10)
    | none => true
  | _, _, _ => true

/-! ## The levels of LRX (R176) -/

/-- The majority of three levels. -/
def majority (a b c : Bool) : Bool := (a && b) || (a && c) || (b && c)

/-- The majority of a history of three samples; none with fewer (R71, R176). -/
def majorityOf : List Bool → Option Bool
  | [a, b, c] => some (majority a b c)
  | _ => none

/-- The filtered level of LRX: undefined until three samples have been taken (R176). -/
def State.filtered (s : State) : Option Bool := majorityOf s.sig.history

/-- LRX reads high: the most recent sample is not low (R157, R176); no sample taken is not low (log 15). -/
def State.readsHigh (s : State) : Bool := s.sig.history.head? != some false

/-! ## Slots (R154 to R156) -/

/-- The number of the slot that begins on this tick, counted from a reference without limit (R154, log 36). -/
def State.slotBeginning (s : State) (ref : FrameEndRef) : Option Nat :=
  let since := elapsedOver ref.rounds s.now ref.endTime
  if since % s.ct = 0 ∧ 3 * s.ct ≤ since then some (since / s.ct - 3) else none

/-- The owner of slot k (R155): in the first round the rotation from the last sender, nobody known to a
station whose reference is not GOOD, which stands aside (R156); in later rounds the fixed order. -/
def slotOwner (ref : FrameEndRef) (k : Nat) : Option StationNo :=
  if k < 32 then
    match ref.good, ref.sender with
    | true, some sender => some (sender + 1 + BitVec.ofNat 5 k)
    | _, _ => none
  else some (BitVec.ofNat 5 (k - 32))

/-- A slot the station owns begins on this tick (R154 to R156). -/
def State.ownSlotBegins (s : State) : Bool :=
  match s.access.reference with
  | none => false
  | some ref =>
    match s.slotBeginning ref with
    | none => false
    | some k => slotOwner ref k == some s.sig.own

end Sys2Proof.Machine
end

