-- ==== Sys2Proof/Machine/Marks.lean ====
section
/-! DEFINITION. Input channels and marks: edges, holdoff, the outgoing mark list and peer marks (Chapter 4). -/

namespace Sys2Proof.Machine

/-! ## Edges (R71 to R75) -/

/-- The settings of a channel the record makes INPUT (4.1). -/
def State.inputSettings (s : State) (c : ChannelNo) : Option InputSettings :=
  match s.control.config with
  | some r => match r.modes[c.toNat] with
    | .input settings => some settings
    | .off | .output _ => none
  | none => none

/-- An edge matches the channel's sense (R73); a RISE is the change to high. -/
def EdgeSense.matchesEdge (sense : EdgeSense) (rise : Bool) : Bool :=
  match sense with
  | .rising => rise
  | .falling => !rise
  | .both => true

/-- The holdoff in ticks, 10 to the microsecond (4.1). -/
def InputSettings.holdoffTicks (x : InputSettings) : Nat := 10 * x.holdoff.toNat

/-- A stamp is inside the window (R74). -/
def insideWindow (windowEnd : Option Time) (holdoff : Nat) (stamp : Time) : Bool :=
  match windowEnd with
  | some e => 1 ≤ ahead e stamp && ahead e stamp ≤ holdoff
  | none => false

/-! ## Marks (R76 to R78) -/

/-- The share target of a channel (4.1). -/
def Share.target : Share → Option Target
  | .none => Option.none
  | .group g => some (.group g)
  | .all => some .all

/-- Offer a mark to the outgoing mark list, or count a shared loss (R78). -/
def offerMark (share : Share) (mark : MarkRecord) (s : State) : State :=
  match share.target with
  | none => s
  | some target =>
    if s.control.station = .active ∧ s.marks.outgoing.length < markCapacity then
      s.onMarks fun m => { m with outgoing := m.outgoing ++ [{ mark := mark, target := target }] }
    else s.onMarks fun m => { m with sharedLoss := satInc m.sharedLoss }

/-- Report a mark locally, if its channel asks for it (R77). -/
def reportMark (x : InputSettings) (mark : MarkRecord) (s : State) : State :=
  if x.localReport then queueReport (.localMark mark) s else s

/-- The mark of an edge recognised now (4.4, R76). -/
def State.markOf (s : State) (c : ChannelNo) (rise : Bool) (suppressed : Byte) : MarkRecord where
  seq := s.marks.nextSeq
  channel := c
  fall := !rise
  stamp := s.shared
  tbState := s.tb.tbState
  suppressed := suppressed

/-- Make a mark (R74, R76): it takes the sequence number and the suppressed count, opens the window, and goes to
the report path and the outgoing list. -/
def makeMark (c : ChannelNo) (x : InputSettings) (i : InputState) (rise : Bool) (s : State) : State :=
  let mark := s.markOf c rise i.suppressed
  offerMark x.share mark (reportMark x mark
    ((setChan c (.input { i with suppressed := 0, windowEnd := some (plusTicks s.shared x.holdoffTicks) }) s).onMarks
      fun m => { m with nextSeq := m.nextSeq + 1 }))

/-- A matching edge at the holdoff test (R74). -/
def matchingEdge (c : ChannelNo) (x : InputSettings) (i : InputState) (rise : Bool) (s : State) : State :=
  if insideWindow i.windowEnd x.holdoffTicks s.shared then
    setChan c (.input { i with suppressed := satInc i.suppressed }) s
  else makeMark c x i rise s

/-- An edge at an INPUT channel whose level has just become the new one (R73). -/
def testEdge (c : ChannelNo) (i : InputState) (rise : Bool) (s : State) : State :=
  match s.inputSettings c with
  | some x =>
    if s.opened ∧ x.sense.matchesEdge rise then matchingEdge c x i rise s else setChan c (.input i) s
  | none => setChan c (.input i) s

/-- An edge: the input level of an INPUT channel changes to the other level, and the edge is tested (R71).  The new level
is the operand, whatever the samples show (log 9). -/
def inputEdge (c : ChannelNo) (level : Bool) (s : State) : State :=
  match s.chan c with
  | .input i => if i.level = some (!level) then testEdge c { i with level := some level } level s else s
  | .off | .output _ => s

/-- INPUT_EDGE (R71). -/
def execInputEdge (c : ChannelNo) (level : Bool) (s : State) : Host.Outcome State Fault Refusal :=
  .next (inputEdge c level s)

/-- The first level of an INPUT channel is not an edge (R71).  It is the operand, whatever the samples show (log 9). -/
def firstLevel (c : ChannelNo) (level : Bool) (s : State) : State :=
  match s.chan c with
  | .input i => if i.level = none then setChan c (.input { i with level := some level }) s else s
  | .off | .output _ => s

/-- FIRST_INPUT_LEVEL (R71). -/
def execFirstInputLevel (c : ChannelNo) (level : Bool) (s : State) : Host.Outcome State Fault Refusal :=
  .next (firstLevel c level s)

/-! ## The MARK frame (R79 to R81) -/

/-- The marks a MARK frame would carry: the unbroken run from the head with its target, up to 6 (R79). -/
def MarkSide.carried (m : MarkSide) : List OutMark :=
  match m.outgoing with
  | [] => []
  | h :: _ => (m.outgoing.takeWhile fun x => x.target == h.target).take marksPerFrame

/-- A MARK frame sent whole: its marks leave, and the shared-loss count falls by what it carried (R80). -/
def MarkSide.sent (count : Nat) (loss : Byte) (m : MarkSide) : MarkSide :=
  { m with outgoing := m.outgoing.drop count, sharedLoss := byte (m.sharedLoss.toNat - loss.toNat) }

/-- A MARK frame dropped: its marks leave and are counted as shared losses (R81). -/
def MarkSide.dropped (count : Nat) (m : MarkSide) : MarkSide :=
  { m with outgoing := m.outgoing.drop count, sharedLoss := satAdd m.sharedLoss count }

/-! ## Peer marks (R83) -/

/-- The marks of a taken MARK frame, one PEER_MARK report each, in body order (R83). -/
def takePeerMarks (origin : StationNo) (loss : Byte) (marks : List MarkRecord) (s : State) : State :=
  queueReports (marks.map fun mark => .peerMark origin mark loss) s

end Sys2Proof.Machine
end

