-- ==== Sys2Proof/Machine/Roster.lean ====
section
/-! DEFINITION. The roster: the sequence check, BEATs, ABSENT entries and the sweep (Chapter 5). -/

namespace Sys2Proof.Machine

/-! ## The sequence check (R96) -/

/-- A peer's entry after a GOOD frame of some sequence (R96). -/
def Peer.takeSequence (seq : Byte) (e : Peer) : Peer :=
  match e.lastSeq with
  | none => { e with lastSeq := some seq }
  | some last =>
    { e with
      lastSeq := some seq
      missed := satAdd e.missed ((seq - last).toNat - 1) }

/-- The sequence check at the sender's entry (R96). -/
def sequenceCheck (p : StationNo) (seq : Byte) (s : State) : State :=
  match s.peer? p with
  | some e => setPeer p (e.takeSequence seq) s
  | none => s

/-! ## ABSENT entries (R91) -/

/-- An entry made ABSENT: its missed-frame count and mismatch flag are kept (R91). -/
def Peer.toAbsent (e : Peer) : Peer :=
  { Peer.cleared with missed := e.missed, mismatch := e.mismatch }

/-- Make a peer ABSENT: the report, then the ABSENT notice (R91). -/
def makeAbsent (p : StationNo) (e : Peer) (cause : RosterCause) (s : State) : State :=
  absentNotice p (queueReport (.rosterChange p e.state .absent cause) (setPeer p e.toAbsent s))

/-! ## BEATs (R88 to R90, R95) -/

/-- The previous beat is within 2B of a local time (R89). -/
def Peer.withinTwo (e : Peer) (beat : Nat) (heardAt : Time) : Bool :=
  match e.lastBeat with
  | some last => elapsed heardAt last ≤ 2 * beat
  | none => false

/-- The state a matching BEAT moves an entry to (R88). -/
def Peer.afterBeat (e : Peer) (beat : Nat) (heardAt : Time) : PeerState :=
  match e.state with
  | .absent => .joining
  | .joining => if e.withinTwo beat heardAt then .present else .joining
  | .present | .silent => .present

/-- The beat count of a state (5.1, R88). -/
def PeerState.beatCount : PeerState → Nat
  | .absent => 0
  | .joining => 1
  | .present | .silent => 2

/-- An entry after a matching BEAT without the leaving flag (R88, R95). -/
def Peer.takeBeat (e : Peer) (beat : Nat) (body : BeatBody) (heardAt : Time) : Peer :=
  { e with
    state := e.afterBeat beat heardAt
    beats := (e.afterBeat beat heardAt).beatCount
    groups := body.groups
    reported := some body.tbState
    lastBeat := some heardAt
    mismatch := false }

/-- The report of an entry a BEAT has moved: to PRESENT from another state (R99). -/
def beatReports (p : StationNo) (old new : PeerState) : List ReportBody :=
  if new = .present ∧ old ≠ .present then [.rosterChange p old new .beat] else []

/-- A matching BEAT (R88, R90).  A leaving one for an entry already ABSENT keeps the last frame sequence just recorded
(R91, log 39). -/
def matchingBeat (p : StationNo) (e : Peer) (body : BeatBody) (heardAt : Time) (s : State) : State :=
  if body.leaving then
    if e.state = .absent then setPeer p { e with mismatch := false } s
    else makeAbsent p { e with mismatch := false } .leaving s
  else
    queueReports (beatReports p e.state (e.afterBeat s.beat heardAt)) (setPeer p (e.takeBeat s.beat body heardAt) s)

/-- A mismatched BEAT: the flag, and one report if it was clear (R95). -/
def mismatchedBeat (p : StationNo) (e : Peer) (heard own : Byte) (s : State) : State :=
  if e.mismatch then s
  else queueReport (.lineMismatch p heard own) (setPeer p { e with mismatch := true } s)

/-- A BEAT's body at the roster, outside PREP (R87, R88, R90, R95). -/
def rosterBeat (p : StationNo) (body : BeatBody) (heardAt : Time) (s : State) : State :=
  match s.control.config, s.peer? p with
  | some c, some e =>
    if !s.opened then s
    else if body.beatCode = c.beatCode then matchingBeat p e body heardAt s
    else mismatchedBeat p e body.beatCode c.beatCode s
  | _, _ => s

/-! ## The sweep (R92) -/

/-- The state the sweep moves an entry to (R92). -/
def Peer.afterSweep (e : Peer) (beat : Nat) (now : Time) : PeerState :=
  match e.lastBeat with
  | none => e.state
  | some last =>
    match e.state with
    | .present => if 3 * beat < elapsed now last then .silent else .present
    | .joining => if 3 * beat < elapsed now last then .absent else .joining
    | .silent => if 8 * beat < elapsed now last then .absent else .silent
    | .absent => .absent

/-- The sweep at one station number (R92). -/
def sweepEntry (s : State) (p : StationNo) : State :=
  match s.peer? p with
  | none => s
  | some e =>
    match e.state, e.afterSweep s.beat s.now with
    | .present, .silent => queueReport (.rosterChange p .present .silent .sweep) (setPeer p { e with state := .silent } s)
    | .joining, .absent | .silent, .absent => makeAbsent p e .sweep s
    | _, _ => s

/-- The roster sweep, in ascending order of station number (R92). -/
def sweep (s : State) : State := stations.foldl sweepEntry s

end Sys2Proof.Machine
end

