-- ==== Sys2Proof/Machine/Timebase.lean ====
section
/-! DEFINITION. The timebase: slew steps, samples, the agreement evaluation and its jump (Chapter 1, R63, R64). -/

namespace Sys2Proof.Machine

/-! ## Slew steps (R3) -/

/-- The timebase after a slew step, by the sign of P (R3); a forward step steps over the shared time that stood
(log 18). -/
def Timebase.slew (t : Timebase) : Timebase :=
  if 0 < t.correction then
    { t with
      offset := t.offset + 1
      correction := t.correction - 1
      stepped := some (t.localTime + t.offset)
      slewTaken := true }
  else if t.correction < 0 then
    { t with offset := t.offset - 1, correction := t.correction + 1, slewTaken := true }
  else { t with slewTaken := true }

/-- Take the slew step of this tick, if there is one. -/
def slewStep (s : State) : State :=
  if s.slewMarked then s.onTb Timebase.slew else s

/-- SLEW_STEP (R3). -/
def execSlewStep (s : State) : Host.Outcome State Fault Refusal :=
  .next (slewStep s)

/-! ## Samples (R10 to R13) -/

/-- The sample of a BEAT: departure stamp plus line delay minus arrival stamp (R10). -/
def sampleOf (lineDelay : Byte) (departure : Time) (arrival : ArrivalStamp) (reported : TbState) : Sample where
  value := departure + lineDelay.setWidth 48 - arrival.shared
  localTime := arrival.localTime
  offset := arrival.offset
  reported := reported

/-- A GOOD BEAT from peer p writes its sample outside PREP when its code is the own code (R10, R11). -/
def takeSample (p : StationNo) (beat : BeatBody) (arrival : ArrivalStamp) (s : State) : State :=
  match s.control.config with
  | none => s
  | some c =>
    if s.opened ∧ p ≠ s.sig.own ∧ beat.beatCode = c.beatCode then
      s.onTb fun t => { t with
        samples := t.samples.set p.toNat (some (sampleOf c.lineDelay beat.stamp arrival beat.tbState)) }
    else s

/-- A sample corrected for every change of the offset since it was taken (R12). -/
def Sample.corrected (x : Sample) (offset : Time) : Int := x.value.toInt - (offset - x.offset).toInt

/-- The usable sample of a slot: fresh, and its sender PRESENT (R13). -/
def State.usableSample (s : State) (p : StationNo) : Option (Int × TbState) :=
  match s.tb.samples[p.toNat] with
  | some x =>
    if elapsed s.now x.localTime ≤ 2 * s.beat && s.isPresent p then some (x.corrected s.tb.offset, x.reported) else none
  | none => none

/-! ## Pool, trim, correction (R15 to R17) -/

/-- LOCKED or HOLDOVER. -/
def TbState.isSettled : TbState → Bool
  | .locked | .holdover => true
  | .solo | .gathering => false

/-- A pool, and whether it holds peer samples (R15). -/
structure Pool where
  entries : List Int
  peers : Bool
  deriving DecidableEq, Repr

/-- The pool by the start state and the usable samples (R15). -/
def poolOf (start : TbState) (usable : List (Int × TbState)) : Pool :=
  let settled := (usable.filter fun x => x.2.isSettled).map Prod.fst
  if start.isSettled then { entries := 0 :: settled, peers := !settled.isEmpty }
  else if settled.isEmpty then { entries := 0 :: usable.map Prod.fst, peers := !usable.isEmpty }
  else { entries := settled, peers := true }

/-- Insert into a rising list. -/
def insertRising (x : Int) : List Int → List Int
  | [] => [x]
  | y :: rest => if x ≤ y then x :: y :: rest else y :: insertRising x rest

/-- The entries in rising order. -/
def rising (entries : List Int) : List Int := entries.foldr insertRising []

/-- Trim ⌊(n − 1)/3⌋ entries at each end (R16). -/
def trimmed (entries : List Int) : List Int :=
  let drop := (entries.length - 1) / 3
  ((rising entries).drop drop).take (entries.length - 2 * drop)

/-- The midpoint of the smallest and the largest retained entries, rounded toward zero (R17). -/
def midpoint (retained : List Int) : Int :=
  (retained.headD 0 + retained.getLastD 0).tdiv 2

/-- The spread, saturating at 65,535 (R17). -/
def spreadOf (retained : List Int) : Count16 :=
  BitVec.ofNat 16 (min 65535 (retained.getLastD 0 - retained.headD 0).toNat)

/-- What an evaluation works out before it applies anything (R14 to R17). -/
structure Evaluation where
  peers : Bool
  correction : Int
  spread : Count16
  deriving DecidableEq, Repr

/-- The pool, trim and correction steps on the samples as they stand (R15 to R17). -/
def State.evaluation (s : State) : Evaluation :=
  let pool := poolOf s.tb.tbState (stations.filterMap s.usableSample)
  let retained := trimmed pool.entries
  { peers := pool.peers, correction := midpoint retained, spread := spreadOf retained }

/-! ## Apply and transition (R18 to R21) -/

/-- The evaluation jumps: SOLO or GATHERING, and |C| exceeds J (R18). -/
def ConfigRecord.jumps (c : ConfigRecord) (start : TbState) (correction : Int) : Bool :=
  !start.isSettled && c.jump.toNat < correction.natAbs

/-- A correction clamped to −J to +J (R18). -/
def clampTo (limit : Nat) (x : Int) : Int := max (-(limit : Int)) (min (limit : Int) x)

/-- The apply step (R18).  A jump leaves nothing stepped over: that was settled before it (log 18). -/
def Timebase.apply (c : ConfigRecord) (correction : Int) (t : Timebase) : Timebase :=
  if c.jumps t.tbState correction then
    { t with offset := t.offset + BitVec.ofInt 48 correction, correction := 0, jumped := true, stepped := none }
  else if t.tbState.isSettled then { t with correction := clampTo c.jump.toNat correction }
  else { t with correction := correction }

/-- The transition step (R19 to R21). -/
def Timebase.transition (c : ConfigRecord) (e : Evaluation) (t : Timebase) : Timebase :=
  let size := e.correction.natAbs
  let lock := c.lock.toNat
  match t.tbState with
  | .solo => if e.peers then { t with tbState := .gathering, agreements := 0 } else t
  | .gathering =>
    if !e.peers then { t with tbState := .solo, agreements := 0 }
    else if e.spread.toNat ≤ lock ∧ size ≤ lock then
      if 3 ≤ t.agreements + 1 then
        { t with tbState := .locked, agreements := 0, disagreements := 0, holdovers := 0 }
      else { t with agreements := t.agreements + 1 }
    else { t with agreements := 0 }
  | .locked =>
    if !e.peers then { t with tbState := .holdover, holdovers := 0, disagreements := 0 }
    else if 4 * lock < size then
      if 3 ≤ t.disagreements + 1 then { t with tbState := .gathering, agreements := 0, disagreements := 0 }
      else { t with disagreements := t.disagreements + 1 }
    else { t with disagreements := 0 }
  | .holdover =>
    if e.peers ∧ size ≤ lock then
      { t with tbState := .locked, holdovers := 0, agreements := 0, disagreements := 0 }
    else if c.holdoverLimit.toNat ≤ t.holdovers + 1 then
      { t with tbState := .solo, holdovers := 0, agreements := 0, disagreements := 0 }
    else { t with holdovers := t.holdovers + 1 }

/-- The timebase after an evaluation: apply, then transition, both by the start state (R14). -/
def Timebase.evaluated (c : ConfigRecord) (e : Evaluation) (t : Timebase) : Timebase :=
  Timebase.transition c e { Timebase.apply c e.correction t with spread := e.spread }

/-! ## What a forward slew step stepped over, before a jump of its tick (R42, R47, R60) -/

/-- A channel takes the edge a slew step of this tick stepped over, if it is its next one (R60). -/
def takeSteppedEdge (s : State) (channel : ChannelNo) : State :=
  match s.chan channel with
  | .output o => if o.nextTime.any s.steppedOver then watchEdges channel s else s
  | .off | .input _ => s

/-- The watches come to what a forward slew step of this tick stepped over before a jump of the tick moves shared time:
the edges in ascending order of channel, then the firings (R42, R47, R60, log 18). -/
def settleStepped (s : State) : State :=
  let edged := channelNumbers.foldl takeSteppedEdge s
  if edged.cues.held.any fun e => edged.steppedOver e.fire then fireDue edged else edged

/-! ## The jump notice (R5, R45, R63, R64) -/

/-- The channels of a set take a forward jump's notice, in ascending order (R63, log 16). -/
def noticeChannels (which : ChannelNo → Bool) (before after : Time) (correction : Nat) (s : State) : State :=
  (channelNumbers.filter which).foldl (noticeAtChannel before after correction) s

/-- What a jump makes the cue table and the channels do: nothing when it is backward (R46, R65); a forward one
fires the entries it has reached, with each channel taking its notice before or after them (R64). -/
def jumpNotice (noticeFirst : BitVec 8) (before after : Time) (correction : Int) (s : State) : State :=
  if 0 < correction then
    noticeChannels (fun c => !noticeFirst.getLsbD c.toNat) before after correction.toNat
      (fireJumped before after correction.toNat
        (noticeChannels (fun c => noticeFirst.getLsbD c.toNat) before after correction.toNat s))
  else s

/-! ## The evaluation (R14) -/

/-- The TIMEBASE_CHANGE report of an evaluation that changed the state (R22). -/
def changeReports (old new : TbState) (e : Evaluation) : List ReportBody :=
  if old = new then [] else [.timebaseChange old new e.correction e.spread]

/-- Announce what an evaluation did, the change report before or after what a jump's notice causes (R5, R22,
log 4). -/
def announce (order : ExpiryOrder) (changes : List ReportBody) (jumps : Bool) (before after : Time)
    (correction : Int) (s : State) : State :=
  let notice := fun s => if jumps then jumpNotice order.noticeFirst before after correction s else s
  if order.changeFirst then notice (queueReports changes s) else queueReports changes (notice s)

/-- The agreement evaluation (R14 to R22); before a jump the watches settle what this tick's slew step stepped over
(log 18). -/
def evaluate (order : ExpiryOrder) (s : State) : State :=
  match s.control.config with
  | none => s
  | some c =>
    let e := s.evaluation
    let jumps := c.jumps s.tb.tbState e.correction
    let t := (if jumps then settleStepped s else s).onTb (Timebase.evaluated c e)
    announce order (changeReports s.tb.tbState t.tb.tbState e) jumps s.shared t.shared e.correction t

end Sys2Proof.Machine
end

