-- ==== Sys2Proof/Machine/Station.lean ====
section
/-! DEFINITION. Station control: the changes of station state and what each does to the other blocks
(Chapter 10), RESET and RESTART. -/

namespace Sys2Proof.Machine

/-- Change the station state and queue its report, the last of the event (R203, R204). -/
def setStation (new : StationState) (cause : Cause) (s : State) : State :=
  queueReport (.stationState s.control.station new cause)
    (s.onControl fun c => { c with station := new, cause := some cause })

/-! ## The pending set -/

/-- Every pending frame withdrawn with its collision count (R171, R197). -/
def LineAccess.clearPending (a : LineAccess) : LineAccess :=
  { a with
    leavingPending := false
    leavingCount := 0
    due := .none
    dueCount := 0
    markCount := 0
    receiptsPending := false
    receiptsCount := 0 }

/-- A frame in flight whose source a CLOSE withdraws: a due BEAT or a receipts BEAT (R168). -/
def Flight.withdrawSource (f : Flight) : Flight :=
  match f.kind with
  | .dueBeat | .receiptsBeat => { f with lost := true }
  | .leavingBeat | .posting _ _ | .mark _ _ => f

/-! ## MUTED (R197) -/

/-- The outgoing mark list is discarded, each mark counted as a shared loss (R82). -/
def MarkSide.discard (m : MarkSide) : MarkSide :=
  { m with outgoing := [], sharedLoss := satAdd m.sharedLoss m.outgoing.length }

/-- What is discarded at an entry to MUTED from ACTIVE or CLOSING, before its report (R197). -/
def silence (s : State) : State :=
  ((abandonPostings s).onAccess LineAccess.clearPending).onMarks MarkSide.discard

/-- The entry to MUTED on a twin notice, by the state left (R197); no effect in the other states. -/
def enterMuted (s : State) : State :=
  match s.control.station with
  | .listen => setStation .muted .twin (s.onControl fun c => { c with listenStart := none })
  | .active | .closing => setStation .muted .twin (silence s)
  | .prep | .muted => s

/-! ## Reaching PREP by CLOSE (R202) -/

/-- The timebase on reaching PREP by CLOSE (R25): the local counter and the offset are kept. -/
def Timebase.reachPrep (t : Timebase) : Timebase :=
  { Timebase.reset with
    localTime := t.localTime
    offset := t.offset
    slewTaken := t.slewTaken
    stepped := t.stepped
    jumped := t.jumped }

/-- The TIMEBASE_CHANGE of reaching PREP, when the state was not SOLO (R22). -/
def soloReports (old : TbState) : List ReportBody :=
  if old = .solo then [] else [.timebaseChange old .solo 0 0]

/-- The values every block takes on reaching PREP by CLOSE (R25, R51, R67, R82, R85, R101, R127, R149, R174). -/
def clearForPrep (s : State) : State :=
  { s with
    tb := s.tb.reachPrep
    cues := { held := [], recent := [], installCount := 0 }
    chans := channelsReachPrep s.control.config s.chans
    marks := { s.marks with outgoing := [], sharedLoss := 0 }
    roster := { s.roster with entries := clearedEntries s.sig.own }
    frames := { s.frames with assembly := s.frames.assembly.map fun a => { a with stamp := none } }
    access := { s.access.clearPending with receipts := [] }
    control := { s.control with listenStart := none } }

/-- Reaching PREP by CLOSE (R202). -/
def reachPrep (cause : Cause) (s : State) : State :=
  setStation .prep cause (queueReports (soloReports s.tb.tbState) (clearForPrep s))

/-! ## The requests of station control -/

/-- An accepted OPEN (R195). -/
def openStation (s : State) : State :=
  setStation .listen .openLine
    (((s.onTb fun t => { t with periodStart := some s.now }).onControl
      fun c => { c with listenStart := some s.now }).onAccess fun a => { a with endSeen := false })

/-- A CLOSE in ACTIVE (R201): the receipts BEAT and the due BEAT are withdrawn with their counts, and the leaving
BEAT becomes pending with count 0. -/
def beginClosing (s : State) : State :=
  setStation .closing .close ((abandonPostings s).onAccess fun a =>
    { a with
      leavingPending := true
      leavingCount := 0
      due := .none
      dueCount := 0
      receiptsPending := false
      receiptsCount := 0
      flight := a.flight.map Flight.withdrawSource })

/-- A CLOSE, by the station state (R200). -/
def closeStation (s : State) : State :=
  match s.control.station with
  | .prep | .closing => s
  | .listen | .muted => reachPrep .close s
  | .active => beginClosing s

/-- An UNMUTE, by the station state (R199). -/
def unmuteStation (s : State) : State :=
  match s.control.station with
  | .muted =>
    setStation .listen .unmute
      ((s.onControl fun c => { c with listenStart := some s.now }).onAccess fun a => { a with endSeen := false })
  | .prep | .listen | .active | .closing => s

/-- An accepted CONFIGURE (R193, R52, R70, R219): the record, the channels and the attention settings. -/
def acceptConfig (c : ConfigRecord) (s : State) : State :=
  ((s.onControl fun k => { k with config := some c }).onChans fun _ => setUpChannels (some c)).onPort fun p =>
    { p with
      lingerFlag := false
      lingerStart := if p.queue.isEmpty then none else some s.now }

/-! ## RESET and RESTART (R190, R191) -/

/-- Every block at its power-on values, with the straps sampled (R190); the commands waiting and the outside
world are no part of the station (log 7). -/
def resetStation (own : StationNo) (rate : BitVec 2) (s : State) : State :=
  { State.powerOn own rate with pending := s.pending, world := s.world, freeCount := s.freeCount }

/-- RESET (R190). -/
def execReset (stn : BitVec 5) (rate : BitVec 2) (s : State) : Host.Outcome State Fault Refusal :=
  .next (resetStation stn rate s)

/-- The values of a RESTART (R191): the power-on values, but that the record, the straps, the local counter and
the offset are kept and the channels stand as at the record's acceptance. -/
def restartStation (s : State) : State :=
  { State.powerOn s.sig.own s.sig.rate with
    pending := s.pending
    tb := s.tb.reachPrep
    chans := setUpChannels s.control.config
    sig := { Signalling.reset s.sig.own s.sig.rate with taken := s.sig.taken }
    control := { station := .prep, config := s.control.config, listenStart := none, cause := none }
    world := s.world
    freeCount := s.freeCount }

/-! ## The end of LISTEN (R196) -/

/-- A frame-end reference that is not GOOD (R150). -/
def FrameEndRef.notGood (endTime : Time) : FrameEndRef where
  endTime := endTime
  sender := none
  good := false

/-- Set the reference (R150, R153): the line condition becomes CLEAR unless it is HELD. -/
def setReference (ref : FrameEndRef) (s : State) : State :=
  s.onAccess fun a =>
    if a.condition = .held then { a with reference := some ref }
    else { a with reference := some ref, condition := .clear, cutEnd := none }

/-- The listen timer has expired (R196). -/
def State.listenEnded (s : State) : Bool :=
  match s.control.station, s.control.listenStart with
  | .listen, some since => 3 * s.beat ≤ elapsed s.now since
  | _, _ => false

/-- The end of LISTEN: ACTIVE, and a reference that is not GOOD if no frame end was handed (R196, R152). -/
def endListen (s : State) : State :=
  if s.listenEnded then
    setStation .active .listenEnd
      ((if s.access.endSeen then s else setReference (FrameEndRef.notGood s.now) s).onControl
        fun c => { c with listenStart := none })
  else s

/-- LISTEN_END (R196). -/
def execListenEnd (s : State) : Host.Outcome State Fault Refusal :=
  .next (endListen s)

end Sys2Proof.Machine
end

