-- ==== Sys2Proof/Machine/LineAccess.lean ====
section
/-! DEFINITION. Line access: the pending set, the choice and the start of a frame, the echo check and what
becomes of a frame in flight, cut wait and the held line (Chapter 8; R145 to R148, R181 to R185). -/

namespace Sys2Proof.Machine

/-! ## The due BEAT (R161) -/

/-- The due BEAT at a period expiry in ACTIVE (R161). -/
def LineAccess.beatDue (a : LineAccess) : LineAccess :=
  match a.due with
  | .none => { a with due := .pending }
  | .pending => { a with beatsSkipped := satInc a.beatsSkipped }
  | .inFlight => { a with due := .renewed }
  | .renewed => { a with beatsSkipped := satInc a.beatsSkipped }

/-- A period expiry at the line access unit: it makes a BEAT due in ACTIVE only (R6, R161). -/
def expiryAtAccess (s : State) : State :=
  if s.control.station = .active then s.onAccess LineAccess.beatDue else s

/-! ## The pending set (R159, R162) -/

/-- The posting frame that is pending: the oldest posting WAITING and not in transmission (R159, R160). -/
def State.pendingPosting (s : State) : Option Posting :=
  s.post.list.find? fun p => p.state == .waiting && !s.inTransmission p.id

/-- The record of the frame in flight names a MARK frame. -/
def Flight.isMark (f : Flight) : Bool :=
  match f.kind with
  | .mark _ _ => true
  | .leavingBeat | .dueBeat | .posting _ _ | .receiptsBeat => false

/-- A MARK frame is pending: ACTIVE, marks in the list, and none in flight (R79, R159). -/
def State.markPending (s : State) : Bool :=
  s.control.station == .active && !s.marks.outgoing.isEmpty && !(s.access.flight.any Flight.isMark)

/-- The oldest receipt was appended more than B/2 ago (R159, log 36). -/
def State.receiptsOld (s : State) : Bool :=
  match s.access.receipts with
  | [] => false
  | r :: _ => s.beat < 2 * elapsedOver r.rounds s.now r.time

/-- The condition of the receipts BEAT (R159): ACTIVE, no other frame pending or in flight, and the oldest
receipt too old. -/
def State.receiptsCondition (s : State) : Bool :=
  s.control.station == .active && !s.access.leavingPending && s.access.due == .none && s.pendingPosting.isNone
    && !s.markPending && s.access.flight.isNone && s.receiptsOld

/-- The receipts BEAT is pending (R162). -/
def State.receiptsBeatPending (s : State) : Bool := s.access.receiptsPending && s.receiptsCondition

/-- The condition of the receipts BEAT has come to hold (R162). -/
def beginReceiptsBeat (s : State) : State :=
  if s.receiptsCondition then s.onAccess fun a => { a with receiptsPending := true } else s

/-- RECEIPTS_BEAT_PENDING (R162). -/
def execReceiptsBeatPending (s : State) : Host.Outcome State Fault Refusal :=
  .next (beginReceiptsBeat s)

/-- The condition has lapsed: no longer pending, the count cleared (R159, R162, log 26). -/
def lapseReceiptsBeat (s : State) : State :=
  if s.access.receiptsPending && !s.receiptsCondition then
    s.onAccess fun a => { a with receiptsPending := false, receiptsCount := 0 }
  else s

/-- The reference and the receipts as local time moves to a value: the rounds since are counted (R154, R159, log 36). -/
def LineAccess.countRounds (now : Time) (a : LineAccess) : LineAccess :=
  { a with
    reference := a.reference.map fun r => { r with rounds := roundsAt now r.endTime r.rounds }
    receipts := a.receipts.map fun r => { r with rounds := roundsAt now r.time r.rounds } }

/-- The MARK frame the list would give now (R79). -/
def State.markFlight (s : State) : FlightKind := .mark s.marks.carried.length s.marks.sharedLoss

/-- The frame of a posting (R147). -/
def Posting.flightKind (p : Posting) : FlightKind := .posting p.id p.isWithdraw

/-- The frame chosen at a start (R160). -/
def State.chosen (s : State) : Option FlightKind :=
  if s.control.station = .closing then if s.access.leavingPending then some .leavingBeat else none
  else if s.control.station = .active then
    if s.access.due = .pending then some .dueBeat
    else match s.pendingPosting with
      | some p => some p.flightKind
      | none =>
        if s.markPending then some s.markFlight
        else if s.receiptsBeatPending then some .receiptsBeat
        else none
  else none

/-- The collision count of a frame as it stands at its start (R159, log 12). -/
def State.countOf (s : State) : FlightKind → Nat
  | .leavingBeat => s.access.leavingCount
  | .dueBeat => s.access.dueCount
  | .posting id _ => ((s.posting? id).map Posting.collisions).getD 0
  | .mark _ _ => s.access.markCount
  | .receiptsBeat => s.access.receiptsCount

/-! ## Building the frame (R145 to R148) -/

/-- A BEAT's body (R131, R146), with the departure stamp captured now (R8). -/
def State.beatBytes (s : State) (leaving : Bool) : List Byte :=
  [byte (s.tb.tbState.code + 128 * bitOf leaving),
    match s.control.config with | some c => c.beatCode | none => 0,
    s.groups] ++ bytesOf 6 s.shared.toNat ++ bytesOf 2 s.tb.spread.toNat

/-- A posting frame's body (R132, R133, R147). -/
def Posting.bytes (p : Posting) : List Byte :=
  p.target.bytes ++ match p.body with
    | .cue records => records.flatMap CueRecord.bytes
    | .withdraw serials => byte serials.length :: serials

/-- A MARK frame's body (R133, R79). -/
def MarkSide.bytes (m : MarkSide) : List Byte :=
  (match m.outgoing with | [] => [] | h :: _ => h.target.bytes)
    ++ [m.sharedLoss, byte m.carried.length] ++ m.carried.flatMap fun x => x.mark.bytes

/-- The kind character and the body of a frame (R130, R145). -/
def State.bodyOf (s : State) : FlightKind → Byte × List Byte
  | .leavingBeat => (1, s.beatBytes true)
  | .dueBeat | .receiptsBeat => (1, s.beatBytes false)
  | .posting id isWithdraw =>
    (if isWithdraw then 3 else 2, ((s.posting? id).map Posting.bytes).getD [])
  | .mark _ _ => (4, s.marks.bytes)

/-- The receipts of the trailer: the oldest, up to 8 (R125). -/
def State.trailer (s : State) : List HeldReceipt := s.access.receipts.take receiptsPerFrame

/-- The characters between the lead and the CRC (R129, R130). -/
def State.frameContent (s : State) (kind : FlightKind) : List Byte :=
  let (code, body) := s.bodyOf kind
  [code, s.sig.own.setWidth 8, s.frames.sequence, byte body.length, byte s.trailer.length]
    ++ body ++ s.trailer.flatMap HeldReceipt.bytes

/-- The lead character (R129). -/
def leadChar : Byte := 0x9B

/-- The copy of a frame, lead to CRC (R129, R145, R148, log 13). -/
def State.frameCopy (s : State) (kind : FlightKind) : List Byte :=
  let content := s.frameContent kind
  leadChar :: content ++ bytesOf 2 (crc content).toNat

/-! ## FRAME_START (R157, R163) -/

/-- A frame is a BEAT. -/
def FlightKind.isBeat : FlightKind → Bool
  | .leavingBeat | .dueBeat | .receiptsBeat => true
  | .posting _ _ | .mark _ _ => false

/-- The record of a frame at its start (R163). -/
def State.flightOf (s : State) (kind : FlightKind) : Flight where
  kind := kind
  collisions := s.countOf kind
  lost := false
  receipts := s.trailer.length
  start := s.now

/-- A frame in flight is not pending (R159). -/
def LineAccess.take (kind : FlightKind) (a : LineAccess) : LineAccess :=
  match kind with
  | .leavingBeat => { a with leavingPending := false }
  | .dueBeat => { a with due := .inFlight }
  | .receiptsBeat => { a with receiptsPending := false }
  | .posting _ _ | .mark _ _ => a

/-- The receiver enters ECHO, and LDE goes high (R181, R183). -/
def Signalling.beginEcho (x : Signalling) : Signalling :=
  { x with
    phase := .echo
    votes := []
    bits := []
    noisy := false
    waiting := none
    echoIndex := 0
    driving := true }

/-- Start a frame of a kind (R163): the copy is built, LDE goes high, the condition becomes SENDING and the frame
is in flight; a character or a frame under way is abandoned (R136, R181) and a BEAT's departure stamp is
captured (R8). -/
def startFrame (kind : FlightKind) (s : State) : State :=
  { s with
    tb := { s.tb with departure := if kind.isBeat then some s.shared else none, arrival := none }
    frames := { s.frames with assembly := none, copy := some (s.frameCopy kind) }
    access := { s.access.take kind with flight := some (s.flightOf kind), condition := .sending }
    sig := s.sig.beginEcho }

/-- A start edge has been taken on this tick and stands unconfirmed (R158). -/
def State.edgeThisTick (s : State) : Bool := s.sig.phase == .startCheck && s.sig.startTick == s.now

/-- The conditions of a start, but for a pending frame (R157); a start edge taken before it on the tick stops it
(R158). -/
def State.mayStart (s : State) : Bool :=
  (s.control.station == .active || s.control.station == .closing) && s.access.condition == .clear
    && s.access.flight.isNone && s.ownSlotBegins && s.readsHigh && !s.edgeThisTick

/-- The frame that starts on this tick, if one does (R157, R160). -/
def State.starting (s : State) : Option FlightKind := if s.mayStart then s.chosen else none

/-- Start the frame of this tick, if there is one.  ECHO reads back from here on: the samples of the tick that were taken
before a FRAME_START from outside are not read (R184, log 19). -/
def frameStart (s : State) : State :=
  match s.starting with
  | some kind => startFrame kind s
  | none => s

/-- FRAME_START (R163). -/
def execFrameStart (s : State) : Host.Outcome State Fault Refusal :=
  .next (frameStart s)

/-! ## PERIOD_EXPIRY (R6) -/

/-- The next period is counted from the end of this one (R6). -/
def nextPeriod (s : State) : State :=
  s.onTb fun t => { t with periodStart := t.periodStart.map fun since => plusTicks since s.beat }

/-- The sweep and the evaluation of one expiry, in either order (R7, log 4). -/
def sweepAndEvaluate (order : ExpiryOrder) (s : State) : State :=
  if order.sweepFirst then evaluate order (sweep s) else sweep (evaluate order s)

/-- A period expiry waits for the slew step of its tick, which a firing was tested against (R61, log 32). -/
def State.expiryWaits (s : State) : Bool := s.stepFixed && s.slewMarked

/-- What one expiry is handed to, as one event (R6): the line access unit last, so that a frame of this tick carries the
new figures; or first, with the frame of this tick, if one starts, built from the figures of the evaluation before (R7,
log 31). -/
def takeExpiry (order : ExpiryOrder) (s : State) : State :=
  if order.beatFirst then sweepAndEvaluate order (frameStart (expiryAtAccess s))
  else expiryAtAccess (sweepAndEvaluate order s)

/-- One period expiry (R6). -/
def expirePeriod (order : ExpiryOrder) (s : State) : State :=
  if s.periodExpired && !s.expiryWaits then takeExpiry order (nextPeriod s) else s

/-- PERIOD_EXPIRY (R6). -/
def execPeriodExpiry (order : ExpiryOrder) (s : State) : Host.Outcome State Fault Refusal :=
  .next (expirePeriod order s)

/-! ## Sent whole (R165) -/

/-- The receiver leaves ECHO, and LDE goes low (R183, R185). -/
def Signalling.endEcho (x : Signalling) : Signalling :=
  { x with phase := .hunting, votes := [], bits := [], noisy := false, echoIndex := 0, driving := false }

/-- The transmission is over: the copy is discarded and the frame leaves the in-flight record (R165, R166). -/
def endTransmission (s : State) : State :=
  { s with
    tb := { s.tb with departure := none }
    frames := { s.frames with copy := none }
    access := { s.access with flight := none }
    sig := s.sig.endEcho }

/-- The reference of an own frame sent whole (R151). -/
def State.ownReference (s : State) : FrameEndRef where
  endTime := s.now
  sender := some s.sig.own
  good := true

/-- The due BEAT after it was sent whole (R161). -/
def LineAccess.dueSent (a : LineAccess) : LineAccess :=
  { a with due := if a.due = .renewed then .pending else .none, dueCount := 0 }

/-- What the sent notice of a kind of frame does (R165, R80, R113, R161, R172); a frame that lost its source is
finished without one (R168). -/
def sentEffect (f : Flight) (s : State) : State :=
  match f.kind with
  | .leavingBeat => if s.control.station = .closing then reachPrep .left s else s
  | .dueBeat => if f.lost then s else s.onAccess LineAccess.dueSent
  | .posting id _ => if f.lost then s else sentNotice id s
  | .mark count loss => (s.onMarks (MarkSide.sent count loss)).onAccess fun a => { a with markCount := 0 }
  | .receiptsBeat =>
    if f.lost then s
    else s.onAccess fun a => { a with receiptsPending := s.receiptsCondition, receiptsCount := 0 }

/-- The frame unit and the receipt list at a frame sent whole (R148, R125). -/
def countSent (f : Flight) (s : State) : State :=
  (s.onFrames fun u => { u with sequence := u.sequence + 1 }).onAccess fun a =>
    { a with receipts := a.receipts.drop f.receipts }

/-- A frame sent whole (R165). -/
def sentWhole (f : Flight) (s : State) : State :=
  sentEffect f (setReference s.ownReference (countSent f (endTransmission s)))

/-! ## Collisions and drops (R166 to R168) -/

/-- The due BEAT after a collision (R161). -/
def LineAccess.dueCut (count : Nat) (a : LineAccess) : LineAccess :=
  { a with
    beatsSkipped := if a.due = .renewed then satInc a.beatsSkipped else a.beatsSkipped
    due := .pending
    dueCount := count }

/-- A frame cut short of its eighth collision rejoins the pending set by the rule of its kind, with its new
count; one that lost its source does not (R166, R168). -/
def cutEffect (f : Flight) (count : Nat) (s : State) : State :=
  match f.kind with
  | .leavingBeat =>
    if s.control.station = .closing then s.onAccess fun a => { a with leavingPending := true, leavingCount := count }
    else s
  | .dueBeat => if f.lost then s else s.onAccess (LineAccess.dueCut count)
  | .posting id _ =>
    if f.lost then s
    else match s.posting? id with
      | some p => setPosting { p with collisions := count } s
      | none => s
  | .mark _ _ => s.onAccess fun a => { a with markCount := count }
  | .receiptsBeat =>
    if f.lost then s
    else s.onAccess fun a =>
      { a with receiptsPending := s.receiptsCondition, receiptsCount := if s.receiptsCondition then count else 0 }

/-- The kind a TROUBLE report names (R167). -/
def FlightKind.trouble : FlightKind → TroubleKind
  | .leavingBeat => .leavingBeat
  | .dueBeat => .dueBeat
  | .posting _ isWithdraw => if isWithdraw then .withdraw else .cue
  | .mark _ _ => .mark
  | .receiptsBeat => .receiptsBeat

/-- The TROUBLE report of a dropped frame (R167); a posting id or a number of marks the frame has not is 0 (log 41). -/
def FlightKind.troubleReport (k : FlightKind) : ReportBody :=
  match k with
  | .posting id _ => .lineTrouble k.trouble id 0
  | .mark count _ => .lineTrouble k.trouble 0 count
  | .leavingBeat | .dueBeat | .receiptsBeat => .lineTrouble k.trouble 0 0

/-- What becomes of a dropped frame, after its TROUBLE report (R167, R81, R119, R161, R172). -/
def dropEffect (f : Flight) (s : State) : State :=
  match f.kind with
  | .leavingBeat =>
    if s.control.station = .closing then
      reachPrep .leaveDropped s
    else s
  | .dueBeat => if f.lost then s else s.onAccess LineAccess.dueSent
  | .posting id _ => if f.lost then s else finishPosting id .lineFailed s
  | .mark count _ => (s.onMarks (MarkSide.dropped count)).onAccess fun a => { a with markCount := 0 }
  | .receiptsBeat =>
    if f.lost then s
    else s.onAccess fun a => { a with receiptsPending := s.receiptsCondition, receiptsCount := 0 }

/-- The eighth collision in succession drops the frame (R167). -/
def dropFrame (f : Flight) (s : State) : State :=
  dropEffect f (queueReport f.kind.troubleReport (s.onAccess fun a => { a with drops := satInc a.drops }))

/-- The release at a collision (R166): cut wait begins, the character counting as ending 1 ct after its start
edge was driven (R151). -/
def release (f : Flight) (s : State) : State :=
  (endTransmission s).onAccess fun a =>
    { a with
      collisions := satInc a.collisions
      condition := .cutWait
      cutEnd := some (plusTicks f.start ((s.sig.echoIndex + 1) * s.ct)) }

/-- A collision (R166, R167). -/
def collide (f : Flight) (s : State) : State :=
  if dropCount ≤ f.collisions + 1 then dropFrame f (release f s)
  else cutEffect f (f.collisions + 1) (release f s)

/-! ## ECHO_CHECK (R164) -/

/-- The comparison of one character (R164). -/
def echoPasses (sent : Byte) (readBack : Option ReadBack) : Bool :=
  match readBack with
  | some r => r.value == sent && !r.framing
  | none => false

/-- The echo check of the next character of the frame in flight (R164 to R166), with the read-back as it comes, at whatever
tick (log 9). -/
def echoCheck (readBack : Option ReadBack) (s : State) : State :=
  match s.access.flight, s.frames.copy with
  | some f, some chars =>
    match chars[s.sig.echoIndex]? with
    | some sent =>
      if echoPasses sent readBack then
        if s.sig.echoIndex + 1 < chars.length then
          s.onSig fun x => { x with echoIndex := x.echoIndex + 1, votes := [], bits := [], noisy := false }
        else sentWhole f s
      else collide f s
    | none => s
  | _, _ => s

/-- ECHO_CHECK (R164). -/
def execEchoCheck (readBack : Option ReadBack) (s : State) : Host.Outcome State Fault Refusal :=
  .next (echoCheck readBack s)

/-! ## Cut wait (R151) -/

/-- Cut wait has run out: 1.5 ct after the last character seen, with no start edge (R151, R178). -/
def State.cutWaitOver (s : State) : Bool :=
  match s.access.condition, s.access.cutEnd with
  | .cutWait, some e =>
    s.sig.phase == .hunting && s.sig.waiting.isNone && reachedTime s.now (plusTicks e s.gapTicks)
  | _, _ => false

/-- The end of cut wait sets a reference that is not GOOD (R151). -/
def endCutWait (s : State) : State :=
  match s.access.cutEnd with
  | some e => if s.cutWaitOver then setReference (FrameEndRef.notGood e) s else s
  | none => s

/-- CUT_WAIT_END (R151). -/
def execCutWaitEnd (s : State) : Host.Outcome State Fault Refusal :=
  .next (endCutWait s)

/-! ## The held line (R169, R170) -/

/-- The access unit takes a held notice (R169): a HELD episode is found, but not while the station is sending
(log 33). -/
def beginHeld (s : State) : State :=
  if s.access.flight.isSome then s
  else queueReport (.lineHeld s.shared) (s.onAccess fun a =>
    { a with condition := .held, cutEnd := none, heldEpisodes := satInc a.heldEpisodes })

/-- The detector enters FOUND, in every receiver state, and hands the held notice over (R186, R169).  It is taken by the
detector state alone, whatever its count (log 9). -/
def lineHeld (s : State) : State :=
  if s.sig.found then s else beginHeld (s.onSig fun x => { x with found := true, runLength := 0 })

/-- LINE_HELD (R169). -/
def execLineHeld (s : State) : Host.Outcome State Fault Refusal :=
  .next (lineHeld s)

/-- The access unit takes a held-end notice (R170): the HELD episode ends, if one is standing. -/
def LineAccess.endHeld (now : Time) (a : LineAccess) : LineAccess :=
  if a.condition = .held then
    { a with condition := .clear, cutEnd := none, reference := some (FrameEndRef.notGood now) }
  else a

/-- The detector returns to WATCHING with its count at 0 and hands the held-end notice over (R187, R170).  It is taken by
the detector state alone, whatever its count (log 9). -/
def heldEnd (s : State) : State :=
  if s.sig.found then
    (s.onSig fun x => { x with found := false, runLength := 0 }).onAccess (LineAccess.endHeld s.now)
  else s

/-- HELD_END (R170). -/
def execHeldEnd (s : State) : Host.Outcome State Fault Refusal :=
  .next (heldEnd s)

end Sys2Proof.Machine
end

