-- ==== Sys2Proof/Machine/Figures.lean ====
section
/-! DEFINITION. The bodies of the STAMP, ROSTER and STATUS replies (R215, 11.5). -/

namespace Sys2Proof.Machine

/-! ## STAMP (R24) -/

/-- The STAMP reply: shared time, timebase state, W, and P in its 24 bits (R24, log 27). -/
def State.stampBody (s : State) : List Byte :=
  bytesOf 6 s.shared.toNat ++ [byte s.tb.tbState.code] ++ bytesOf 2 s.tb.spread.toNat
    ++ bytesOf 3 (signedField Config.freePending s.tb.correction).toNat

/-! ## ROSTER (R100) -/

/-- The time since a last beat in units of 100 microseconds, rounded down and saturating (11.5). -/
def State.beatAge (s : State) (e : Peer) : Nat :=
  match e.lastBeat with
  | some last => min 65535 (elapsed s.now last / 1000)
  | none => 0

/-- The reported state of a peer, zero when none. -/
def Peer.reportedCode (e : Peer) : Nat :=
  match e.reported with
  | some t => t.code
  | none => 0

/-- The seven characters of a roster entry, none for an ABSENT peer (R100, 11.5). -/
def State.rosterBytes (s : State) (p : StationNo) : List Byte :=
  match s.entry p with
  | .self => [byte p.toNat, s.groups, byte s.tb.tbState.code] ++ bytesOf 2 0 ++ bytesOf 2 0
  | .peer e =>
    if e.state = .absent then []
    else [byte (p.toNat + 32 * e.state.code + 128 * bitOf e.mismatch), e.groups, byte e.reportedCode]
      ++ bytesOf 2 (s.beatAge e) ++ bytesOf 2 e.missed.toNat

/-- The ROSTER reply: the entry count and the entries in ascending order (R100). -/
def State.rosterBody (s : State) : List Byte :=
  let entries := stations.flatMap s.rosterBytes
  byte (entries.length / 7) :: entries

/-! ## STATUS (R215) -/

/-- The listen time left, when the listen timer runs (R204). -/
def State.listenLeft (s : State) : Option Nat :=
  match s.control.station, s.control.listenStart with
  | .listen, some since => some (3 * s.beat - elapsed s.now since)
  | _, _ => none

/-- Characters 1 to 7: station control (R204); the listen time left is 0 when it is not present (log 37). -/
def State.controlBytes (s : State) : List Byte :=
  [byte s.control.station.code, byte (bitOf s.control.config.isSome + 2 * bitOf s.listenLeft.isSome),
    byte ((s.control.cause.map Cause.code).getD 0)] ++ bytesOf 4 (s.listenLeft.getD 0)

/-- Characters 8 to 17: the cue table (R50). -/
def State.cueBytes (s : State) : List Byte :=
  [byte s.cues.held.length] ++ timeBytes (s.cues.held.head?.map HeldEntry.fire)
    ++ [byte s.cues.recent.length] ++ bytesOf 2 s.cues.installCount.toNat

/-- The code of a run (11.5). -/
def RunKind.code : RunKind → Nat
  | .idle => 0
  | .pulse => 1
  | .train => 2

/-- The running key of an OUTPUT channel, bit 7 set when one is present (11.5); zero when none is (log 37). -/
def runKeyBytes (key : Option CueKey) : List Byte :=
  match key with
  | some k => [byte (k.origin.toNat + 128), k.serial]
  | none => [0, 0]

/-- The twelve characters of a channel (R69, R84, 11.5); an input level or a time that is not present is 0 (log 37). -/
def Channel.bytes : Channel → List Byte
  | .off => List.replicate 12 0
  | .output o =>
    [byte (1 + 4 * bitOf o.level + 16 * o.run.code + 64 * bitOf o.nextTime.isSome)] ++ runKeyBytes o.key
      ++ [byte o.completed, byte o.left] ++ timeBytes o.nextTime ++ [0]
  | .input i =>
    [byte (2 + 4 * bitOf (i.level.getD false) + 8 * bitOf i.level.isSome + 64 * bitOf i.windowEnd.isSome),
      i.suppressed] ++ timeBytes i.windowEnd ++ List.replicate 4 0

/-- Characters 18 to 113: the channels, channel 0 first. -/
def State.channelBytes (s : State) : List Byte := channelNumbers.flatMap fun c => (s.chan c).bytes

/-- Characters 114 to 117: marks (R84). -/
def State.markBytes (s : State) : List Byte :=
  bytesOf 2 s.marks.nextSeq.toNat ++ [byte s.marks.outgoing.length, s.marks.sharedLoss]

/-- How many peers stand in a state. -/
def State.peersIn (s : State) (state : PeerState) : Nat :=
  (stations.filter fun p => match s.peer? p with
    | some e => e.state == state
    | none => false).length

/-- Characters 118 to 122: the roster (R100). -/
def State.rosterFigures (s : State) : List Byte :=
  [byte (s.peersIn .absent), byte (s.peersIn .joining), byte (s.peersIn .present), byte (s.peersIn .silent),
    s.roster.twinCount]

/-- Characters 123 to 129: postings (R126). -/
def State.postBytes (s : State) : List Byte :=
  [byte s.post.list.length, byte s.post.list.length, s.post.nextSerial, s.post.nextId,
    byte s.access.receipts.length] ++ bytesOf 2 s.post.receiptsDropped.toNat

/-- Characters 130 to 144: the frame unit (R149). -/
def State.frameBytes (s : State) : List Byte :=
  let u := s.frames
  [u.good, u.broken, u.overlong, u.malformed, u.badCheck, u.stray, u.noisy].flatMap (fun c => bytesOf 2 c.toNat)
    ++ [u.sequence]

/-- The code of a line condition (11.5). -/
def LineCondition.code : LineCondition → Nat
  | .clear => 0
  | .receiving => 1
  | .sending => 2
  | .cutWait => 3
  | .held => 4

/-- The code of a due BEAT state (11.5). -/
def DueBeat.code : DueBeat → Nat
  | .none => 0
  | .pending => 1
  | .inFlight => 2
  | .renewed => 3

/-- The reference's characters (11.5), zero where it or its sender is absent (log 37). -/
def referenceBytes (r : Option FrameEndRef) : List Byte :=
  match r with
  | some r =>
    [byte (1 + 2 * bitOf r.good)] ++ bytesOf 6 r.endTime.toNat ++ [byte ((r.sender.map BitVec.toNat).getD 0)]
  | none => List.replicate 8 0

/-- The pending flags (11.5). -/
def State.pendingFlags (s : State) : Nat :=
  bitOf s.access.leavingPending + 2 * bitOf (s.access.due == .pending) + 4 * bitOf s.markPending
    + 8 * bitOf s.receiptsBeatPending + 16 * bitOf s.pendingPosting.isSome

/-- The collision count of each posting's frame in list order, 0xFF in the places no posting has (log 29). -/
def State.postingCounts (s : State) : List Byte :=
  ((s.post.list.map fun (p : Posting) => byte p.collisions) ++ List.replicate 8 0xFF).take 8

/-- Characters 145 to 175: line access (R174). -/
def State.accessBytes (s : State) : List Byte :=
  let a := s.access
  [byte a.condition.code] ++ referenceBytes a.reference ++ [byte a.due.code, byte s.pendingFlags,
    byte a.leavingCount, byte a.dueCount, byte a.markCount, byte a.receiptsCount] ++ s.postingCounts
    ++ [a.collisions, a.drops, a.beatsSkipped, a.heldEpisodes].flatMap (fun c => bytesOf 2 c.toNat)

/-- Characters 176 to 179: signalling (R188); the level bit of an undefined filtered level is 0 (log 37). -/
def State.signalBytes (s : State) : List Byte :=
  [byte (s.sig.own.toNat + 64 * s.sig.rate.toNat),
    byte (bitOf (s.filtered.getD false) + 2 * bitOf s.filtered.isSome + 4 * bitOf s.sig.found)]
    ++ bytesOf 2 s.sig.glitches.toNat

/-- Characters 180 to 182: the local port (R215). -/
def State.portBytes (s : State) : List Byte :=
  [byte s.port.queue.length, s.port.lost,
    byte (bitOf s.lattn + 2 * bitOf (0 < s.port.urgent) + 4 * bitOf s.port.lingerFlag
      + 8 * bitOf s.port.lingerStart.isSome)]

/-- The STATUS reply, one snapshot (R215). -/
def State.statusBody (s : State) : List Byte :=
  s.controlBytes ++ s.cueBytes ++ s.channelBytes ++ s.markBytes ++ s.rosterFigures ++ s.postBytes ++ s.frameBytes
    ++ s.accessBytes ++ s.signalBytes ++ s.portBytes

end Sys2Proof.Machine
end

