-- ==== Sys2Proof/Machine/LocalPort.lean ====
section
/-! DEFINITION. The local port: what an exchange clocks in, the layout check, the requests and the linger timer
(Chapter 11). -/

namespace Sys2Proof.Machine

/-! ## What an exchange clocks in (R207, R208) -/

/-- A character of eight bits as they are clocked, the most significant first (R207). -/
def charOfBits (bits : List Bool) : Byte := byte (bits.foldl (fun v b => 2 * v + bitOf b) 0)

/-- The whole characters of the bits clocked in on LMOSI (R207). -/
def charsOfBits : List Bool → List Byte
  | b7 :: b6 :: b5 :: b4 :: b3 :: b2 :: b1 :: b0 :: rest =>
    charOfBits [b7, b6, b5, b4, b3, b2, b1, b0] :: charsOfBits rest
  | _ => []

/-- What the request buffer keeps of the characters gathered: none beyond the length the second one states (R207). -/
def keptChars : List Byte → List Byte
  | code :: len :: rest => code :: len :: rest.take len.toNat
  | chars => chars

/-- The command of a whole request, by its code (11.5). -/
def requestOf (code : Byte) (body : List Byte) : Instr :=
  match code.toNat with
  | 0 => .nop body
  | 1 => .configure body
  | 2 => .openLine body
  | 3 => .close body
  | 4 => .unmute body
  | 5 => .restart body
  | 6 => .post body
  | 7 => .withdraw body
  | 8 => .fetch body
  | 9 => .status body
  | 10 => .stamp body
  | 11 => .roster body
  | _ => .unknownRequestCode code body

/-- What an exchange with these characters gathered, and a partial character of some bits, is settled as (R208). -/
def settledAs (chars : List Byte) (partialBits : Nat) : Instr :=
  match chars with
  | [] => if partialBits = 0 then .noRequest else .short [] partialBits
  | [_] => .short chars partialBits
  | code :: len :: rest =>
    if partialBits = 0 ∧ len.toNat ≤ rest.length then requestOf code (rest.take len.toNat)
    else .short chars partialBits

/-- The command the rise of LCS makes of the bits clocked in since its fall (R207, R208, log 8). -/
def exchangeOf (bits : List Bool) : Instr := settledAs (charsOfBits bits) (bits.length % 8)

/-- The request buffer holds the characters gathered (R207). -/
def gather (chars : List Byte) (s : State) : State := s.onPort fun p => { p with request := keptChars chars }

/-- The request buffer holds a whole request: its code, its body length, its body (R207, 11.5). -/
def gatherRequest (code : Byte) (body : List Byte) (s : State) : State :=
  s.onPort fun p => { p with request := code :: byte body.length :: body }

/-! ## Replies (R208 to R210) -/

/-- The exchange ends with this reply in the holder (R208, R209). -/
def answer (r : Reply) (s : State) : State :=
  s.onPort fun p => { p with holder := r, exchange := none }

/-- An OK reply without a body. -/
def Reply.okReply : Reply where
  status := .ok
  body := []

/-- An OK reply with a body. -/
def Reply.okWith (body : List Byte) : Reply where
  status := .ok
  body := body

/-- A request that carries no body: refused BAD_REQUEST when it has one (R209). -/
def bodyless (body : List Byte) (taken : State → State) (s : State) : State :=
  if body.isEmpty then taken s else answer (Reply.refusal .badRequest) s

/-- The fall of LCS (R207): the holder's reply goes out with the station state and the queue count of this tick, and the
request buffer is empty; a fall inside an exchange is none. -/
def beginExchange (s : State) : State :=
  match s.port.exchange with
  | some _ => s
  | none => s.onPort fun p => { p with
      exchange := some (p.holder.bytes s.control.station p.queue.length)
      request := [] }

/-- EXCHANGE_BEGIN (R207). -/
def execExchangeBegin (s : State) : Host.Outcome State Fault Refusal :=
  .next (beginExchange s)

/-- NO_REQUEST (R208). -/
def execNoRequest (s : State) : Host.Outcome State Fault Refusal :=
  .next (answer Reply.nopReply (gather [] s))

/-- SHORT (R208): the request is discarded. -/
def execShort (clocked : List Byte) (_partialBits : Nat) (s : State) : Host.Outcome State Fault Refusal :=
  .next (answer (Reply.refusal .short) (gather clocked s))

/-- NOP (R210). -/
def execNop (body : List Byte) (s : State) : Host.Outcome State Fault Refusal :=
  .next (bodyless body (answer Reply.nopReply) (gatherRequest 0 body s))

/-- UNKNOWN_REQUEST_CODE (R209). -/
def execUnknownRequestCode (code : Byte) (body : List Byte) (s : State) : Host.Outcome State Fault Refusal :=
  .next (answer (Reply.refusal .badRequest) (gatherRequest code body s))

/-! ## The requests of station control -/

/-- CONFIGURE (R192, R193). -/
def configure (body : List Byte) (s : State) : State :=
  if body.length ≠ configLength then answer (Reply.refusal .badRequest) s
  else if s.control.station ≠ .prep then answer (Reply.refusal .notPrep) s
  else match configFault body with
    | some field => answer (Reply.refusalAt .badConfig field) s
    | none => answer Reply.okReply (acceptConfig (configOf body) s)

/-- CONFIGURE (R192). -/
def execConfigure (body : List Byte) (s : State) : Host.Outcome State Fault Refusal :=
  .next (configure body (gatherRequest 1 body s))

/-- OPEN (R195). -/
def takeOpen (s : State) : State :=
  if s.control.station ≠ .prep then answer (Reply.refusal .notPrep) s
  else if s.control.config = none then answer (Reply.refusal .noConfig) s
  else answer Reply.okReply (openStation s)

/-- OPEN (R195). -/
def execOpenLine (body : List Byte) (s : State) : Host.Outcome State Fault Refusal :=
  .next (bodyless body takeOpen (gatherRequest 2 body s))

/-- CLOSE (R200). -/
def takeClose (s : State) : State := answer Reply.okReply (closeStation s)

/-- CLOSE (R200). -/
def execClose (body : List Byte) (s : State) : Host.Outcome State Fault Refusal :=
  .next (bodyless body takeClose (gatherRequest 3 body s))

/-- UNMUTE (R199). -/
def takeUnmute (s : State) : State := answer Reply.okReply (unmuteStation s)

/-- UNMUTE (R199). -/
def execUnmute (body : List Byte) (s : State) : Host.Outcome State Fault Refusal :=
  .next (bodyless body takeUnmute (gatherRequest 4 body s))

/-- RESTART (R191): its reply is made after its values are set (R210). -/
def takeRestart (s : State) : State := answer Reply.okReply (restartStation s)

/-- RESTART (R191). -/
def execRestart (body : List Byte) (s : State) : Host.Outcome State Fault Refusal :=
  .next (bodyless body takeRestart (gatherRequest 5 body s))

/-! ## The requests of the posting unit (R104) -/

/-- A POST: the layout check, then the posting unit (R209, R104). -/
def post (body : List Byte) (s : State) : State :=
  match postOf body with
  | none => answer (Reply.refusal .badRequest) s
  | some (target, records) =>
    let (after, reply) := takePost target records s
    answer reply after

/-- POST (R104). -/
def execPost (body : List Byte) (s : State) : Host.Outcome State Fault Refusal :=
  .next (post body (gatherRequest 6 body s))

/-- A WITHDRAW: the layout check, then the posting unit (R209, R104). -/
def withdraw (body : List Byte) (s : State) : State :=
  match withdrawOf body with
  | none => answer (Reply.refusal .badRequest) s
  | some (target, serials) =>
    let (after, reply) := takeWithdraw target serials s
    answer reply after

/-- WITHDRAW (R105). -/
def execWithdraw (body : List Byte) (s : State) : Host.Outcome State Fault Refusal :=
  .next (withdraw body (gatherRequest 7 body s))

/-! ## FETCH (R214, R216, R217) -/

/-- How many reports a FETCH takes now (R214). -/
def State.fetched (s : State) : Nat := fetchCount 4 0 s.port.queue

/-- The urgent reports among some. -/
def urgentIn (reports : List Report) : Nat := (reports.filter fun r => r.body.urgent).length

/-- The queue after a FETCH of n reports, with the urgent count and the linger timer (R214, R216, R217). -/
def removeReports (n : Nat) (s : State) : State :=
  s.onPort fun p => { p with
    queue := p.queue.drop n
    urgent := if (p.queue.drop n).isEmpty then 0 else p.urgent - urgentIn (p.queue.take n)
    lingerFlag := false
    lingerStart := if (p.queue.drop n).isEmpty || s.control.config.isNone then none else some s.now }

/-- A FETCH (R214). -/
def takeFetch (s : State) : State :=
  answer (Reply.okWith (fetchBody (s.port.queue.take s.fetched))) (removeReports s.fetched s)

/-- FETCH (R214). -/
def execFetch (body : List Byte) (s : State) : Host.Outcome State Fault Refusal :=
  .next (bodyless body takeFetch (gatherRequest 8 body s))

/-! ## The requests answered from figures (R215) -/

/-- The reply to a STATUS (R215). -/
def takeStatus (s : State) : State := answer (Reply.okWith s.statusBody) s

/-- STATUS (R215). -/
def execStatus (body : List Byte) (s : State) : Host.Outcome State Fault Refusal :=
  .next (bodyless body takeStatus (gatherRequest 9 body s))

/-- The reply to a STAMP (R24). -/
def takeStamp (s : State) : State := answer (Reply.okWith s.stampBody) s

/-- STAMP (R24). -/
def execStamp (body : List Byte) (s : State) : Host.Outcome State Fault Refusal :=
  .next (bodyless body takeStamp (gatherRequest 10 body s))

/-- The reply to a ROSTER (R100). -/
def takeRoster (s : State) : State := answer (Reply.okWith s.rosterBody) s

/-- ROSTER (R100). -/
def execRoster (body : List Byte) (s : State) : Host.Outcome State Fault Refusal :=
  .next (bodyless body takeRoster (gatherRequest 11 body s))

/-! ## The linger timer (R217) -/

/-- The linger timer has run its time (R217, log 20). -/
def State.lingerOver (s : State) : Bool :=
  match s.control.config, s.port.lingerStart with
  | some c, some since => lingerTicks c ≤ elapsed s.now since
  | _, _ => false

/-- The linger timer expires: the flag is set and the timer stops (R217). -/
def expireLinger (s : State) : State :=
  if s.lingerOver then s.onPort fun p => { p with lingerFlag := true, lingerStart := none } else s

/-- LINGER_EXPIRY (R217). -/
def execLingerExpiry (s : State) : Host.Outcome State Fault Refusal :=
  .next (expireLinger s)

end Sys2Proof.Machine
end

