-- ==== Sys2Proof/Machine/Frames.lean ====
section
/-! DEFINITION. Received frames: assembly, verdicts, frame ends and the dispatch of a GOOD frame (7.3, 7.4),
with the twin frame (R97). -/

namespace Sys2Proof.Machine

/-! ## Twin frames (R97) -/

/-- A twin frame at the roster (R97): the twin count, and in LISTEN, ACTIVE or CLOSING the report and the entry to
MUTED, in the order of R197. -/
def takeTwin (kind seq : Byte) (s : State) : State :=
  let counted := s.onRoster fun r => { r with twinCount := satInc r.twinCount }
  match s.control.station with
  | .listen | .active | .closing => enterMuted (queueReport (.lineTwin counted.roster.twinCount kind seq) counted)
  | .muted => counted
  | .prep => s

/-! ## Dispatch (R142 to R144) -/

/-- The header at the roster, outside PREP (R87): the twin check or the sequence check.  The frame kind of a TWIN report is
the H1 code (R130, log 40). -/
def dispatchHeader (f : LineFrame) (s : State) : State :=
  if f.source = s.sig.own then takeTwin f.body.kindCode f.sequence s
  else if s.opened then sequenceCheck f.source f.sequence s else s

/-- The body at the blocks that use its kind (R143): a BEAT at the roster and the sample table, the others when
the target includes this station, outside PREP (R32, R39, R83). -/
def dispatchBody (f : LineFrame) (arrival : ArrivalStamp) (s : State) : State :=
  match f.body with
  | .beat b => takeSample f.source b arrival (rosterBeat f.source b arrival.localTime s)
  | .cue target records => if s.opened && s.includesSelf target then takeCues f.source records s else s
  | .withdraw target serials => if s.opened && s.includesSelf target then takeWithdrawals f.source serials s else s
  | .mark target loss marks => if s.opened && s.includesSelf target then takePeerMarks f.source loss marks s else s

/-- Dispatch a GOOD frame: header, body unless it is a twin frame, trailer (R142). -/
def dispatch (f : LineFrame) (arrival : ArrivalStamp) (s : State) : State :=
  let afterHeader := dispatchHeader f s
  let afterBody := if f.source = s.sig.own then afterHeader else dispatchBody f arrival afterHeader
  takeReceipts f.source f.receipts afterBody

/-! ## Verdicts (R137 to R141) -/

/-- How a frame in assembly ends (R137). -/
inductive FrameEnd where
  | lengthReached | gap | overlong
  deriving DecidableEq, Repr

/-- The verdicts on a frame (R138); GOOD comes with what the frame carries. -/
inductive FrameVerdict where
  | broken | overlong | malformed | badCheck
  | good (frame : LineFrame)
  deriving DecidableEq, Repr

/-- The CRC check of R135, over every character after the lead. -/
def checkPasses (chars : List Byte) : Bool := crc (chars.drop 1) == 0

/-- The verdict of an ended frame (R138). -/
def Assembly.verdict (a : Assembly) (how : FrameEnd) : FrameVerdict :=
  if a.broken ∨ how = .gap then .broken
  else if how = .overlong then .overlong
  else match lineFrameOf a.chars with
    | none => .malformed
    | some f => if checkPasses a.chars then .good f else .badCheck

/-- The verdict's counter (R140). -/
def FrameUnit.count (v : FrameVerdict) (u : FrameUnit) : FrameUnit :=
  match v with
  | .broken => { u with broken := satInc u.broken }
  | .overlong => { u with overlong := satInc u.overlong }
  | .malformed => { u with malformed := satInc u.malformed }
  | .badCheck => { u with badCheck := satInc u.badCheck }
  | .good _ => { u with good := satInc u.good }

/-- The reference of a frame end (R141, R150). -/
def FrameVerdict.reference (v : FrameVerdict) (endTime : Time) : FrameEndRef :=
  match v with
  | .good f => { endTime := endTime, sender := some f.source, good := true }
  | .broken | .overlong | .malformed | .badCheck => FrameEndRef.notGood endTime

/-- Hand a frame end to the line access unit (R141, R152). -/
def handFrameEnd (ref : FrameEndRef) (s : State) : State :=
  (setReference ref s).onAccess fun a => { a with endSeen := true }

/-- The arrival stamp of a frame: the one held with it, or, when that was discarded, or its lead came as a command with no
start edge before it, a free value (R9, R25, R136, log 10). -/
def State.arrivalOf (s : State) (a : Assembly) : ArrivalStamp :=
  match a.stamp with
  | some stamp => stamp
  | none =>
    let (shared, localTime, offset) := Config.freeStamp a.leadTick s.tb.offset
    { shared := shared, localTime := localTime, offset := offset }

/-- The dispatch of a frame judged GOOD; no other is dispatched (R138). -/
def dispatchVerdict (v : FrameVerdict) (arrival : ArrivalStamp) (s : State) : State :=
  match v with
  | .good f => dispatch f arrival s
  | .broken | .overlong | .malformed | .badCheck => s

/-- End the frame in assembly: verdict, counter, frame end and dispatch in one event (R137 to R142). -/
def endFrame (a : Assembly) (how : FrameEnd) (s : State) : State :=
  let v := a.verdict how
  let counted := s.onFrames fun u => FrameUnit.count v { u with assembly := none }
  dispatchVerdict v (s.arrivalOf a) (handFrameEnd (v.reference a.lastEnd) counted)

/-! ## Assembly (R136, R137) -/

/-- A clean lead character (R136). -/
def isCleanLead (c : RxChar) : Bool := c.value == leadChar && !c.framing

/-- A frame opened by its lead (R136), with the arrival stamp captured for it (R9). -/
def Assembly.opened (c : RxChar) (stamp : Option ArrivalStamp) : Assembly where
  chars := [c.value]
  broken := false
  stamp := stamp
  leadTick := c.startTick
  lastEnd := c.endTick

/-- A further character of the frame in assembly (7.3). -/
def Assembly.append (c : RxChar) (a : Assembly) : Assembly :=
  { a with chars := a.chars ++ [c.value], broken := a.broken || c.framing, lastEnd := c.endTick }

/-- The declared length, once the header is complete (R129). -/
def Assembly.declared (a : Assembly) : Option Nat :=
  match a.chars with
  | _ :: _ :: _ :: _ :: h4 :: h5 :: _ => some (declaredLength h4 h5)
  | _ => none

/-- Whether a frame ends at its last character: at the declared length, or at the 97th (R137). -/
def Assembly.ends (a : Assembly) : Option FrameEnd :=
  match a.declared with
  | none => none
  | some n =>
    if n ≤ frameCapacity then if n ≤ a.chars.length then some .lengthReached else none
    else if frameCapacity < a.chars.length then some .overlong
    else none

/-- A character inside a frame: it joins the frame, which may end at it. -/
def extendFrame (c : RxChar) (a : Assembly) (s : State) : State :=
  let longer := a.append c
  match longer.ends with
  | some how => endFrame longer how s
  | none => s.onFrames fun u => { u with assembly := some longer }

/-- A clean lead outside a frame opens one; from CUT WAIT the condition becomes RECEIVING (R136, R151, R153). -/
def openFrame (c : RxChar) (stamp : Option ArrivalStamp) (s : State) : State :=
  (s.onFrames fun u => { u with assembly := some (Assembly.opened c stamp) }).onAccess fun a =>
    if a.condition = .cutWait then { a with condition := .receiving, cutEnd := none } else a

/-- The line condition at the end of a stray character: from RECEIVING to CLEAR, and in CUT WAIT the end time moves
on (R151, R153). -/
def LineAccess.strayEnded (endTick : Time) (a : LineAccess) : LineAccess :=
  match a.condition with
  | .receiving => { a with condition := .clear }
  | .cutWait => { a with cutEnd := some endTick }
  | .clear | .sending | .held => a

/-- A stray character (R136). -/
def strayCharacter (c : RxChar) (s : State) : State :=
  (s.onFrames fun u => { u with stray := satInc u.stray }).onAccess (LineAccess.strayEnded c.endTick)

/-- A character at the frame unit (R136, R137), with the arrival stamp that was held for it. -/
def assemble (c : RxChar) (stamp : Option ArrivalStamp) (s : State) : State :=
  match s.frames.assembly with
  | some a => extendFrame c a s
  | none => if isCleanLead c then openFrame c stamp s else strayCharacter c s

/-- A gap has run out in a frame in assembly: 1.5 ct after the last stop bit with no start edge (R128, R137,
R178). -/
def State.gapOver (s : State) : Bool :=
  match s.frames.assembly with
  | some a =>
    s.sig.phase == .hunting && s.sig.waiting.isNone && reachedTime s.now (plusTicks a.lastEnd s.gapTicks)
  | none => false

/-- The frame in assembly ends by the gap (R137). -/
def gapFound (s : State) : State :=
  match s.frames.assembly with
  | some a => if s.gapOver then endFrame a .gap s else s
  | none => s

/-- GAP_FOUND (R137). -/
def execGapFound (s : State) : Host.Outcome State Fault Refusal :=
  .next (gapFound s)

end Sys2Proof.Machine
end

