-- ==== Sys2Proof/Machine/Signalling.lean ====
section
/-! DEFINITION. The receiver's events: start edges, confirmations, glitches and delivered characters
(Chapter 9). -/

namespace Sys2Proof.Machine

/-! ## CHARACTER_DELIVERED (R180) -/

/-- The receiver hands the character over and is HUNTING (R180). -/
def Signalling.delivered (x : Signalling) : Signalling :=
  { x with phase := .hunting, votes := [], bits := [], noisy := false, waiting := none }

/-- The NOISY character is counted (R140), and the stamp leaves the timebase with the character (R9). -/
def receiveCharacter (c : RxChar) (s : State) : State :=
  ((s.onSig Signalling.delivered).onFrames fun u =>
    { u with noisy := if c.noisy then satInc u.noisy else u.noisy }).onTb fun t => { t with arrival := none }

/-- A character delivered to the frame unit, while the own transmitter is not sending (R180, R136).  It is taken as it comes, in
every receiver state, with the stamp held then (log 9, log 10). -/
def deliverCharacter (c : RxChar) (s : State) : State :=
  if s.access.flight.isSome then s else assemble c s.tb.arrival (receiveCharacter c s)

/-- CHARACTER_DELIVERED (R180). -/
def execCharacterDelivered (c : RxChar) (s : State) : Host.Outcome State Fault Refusal :=
  .next (deliverCharacter c s)

/-! ## START_EDGE (R177, R180) -/

/-- The samples kept once the newest is known to be low: a start edge is a low sample (R176, R177).  For a START_EDGE with no
low sample behind it, one is put at the head, which no sample count and no detector takes (log 9). -/
def showLow (history : List Bool) : List Bool :=
  if history.head? = some false then history else (false :: history).take 3

/-- The receiver enters START CHECK at the sample just taken, no character awaits delivery any more, and the present level
reads low (R177, R180).  Before the first sample of a tick it counts from place 0 (log 9). -/
def Signalling.beginCheck (now : Time) (x : Signalling) : Signalling :=
  { x with
    phase := .startCheck
    history := showLow x.history
    startTick := now
    startPlace := x.taken - 1
    votes := []
    bits := []
    noisy := false
    waiting := none }

/-- The character awaiting delivery, with the present tick as its end (R180). -/
def WaitingChar.endedAt (now : Time) (w : WaitingChar) : RxChar where
  value := w.value
  noisy := w.noisy
  framing := w.framing
  startTick := w.startTick
  endTick := now

/-- The character awaiting delivery, if there is one, is delivered on the tick of a falling edge (R180). -/
def deliverWaiting (s : State) : State :=
  match s.sig.waiting with
  | some w => deliverCharacter (w.endedAt s.now) s
  | none => s

/-- START CHECK begins, and the arrival stamp is captured (R177, R9). -/
def openCheck (s : State) : State :=
  (s.onSig (Signalling.beginCheck s.now)).onTb fun t =>
    { t with arrival := some { shared := s.shared, localTime := t.localTime, offset := t.offset } }

/-- A falling edge in HUNTING: a character awaiting delivery is delivered first, then START CHECK begins (R177, R180).  It is
taken by the receiver state alone, whatever the samples show (log 9); with a frame in flight, which no run reaches, the
character is abandoned (log 23). -/
def startEdge (s : State) : State :=
  if s.sig.phase = .hunting then openCheck (deliverWaiting s) else s

/-- START_EDGE (R177, R180). -/
def execStartEdge (s : State) : Host.Outcome State Fault Refusal :=
  .next (startEdge s)

/-! ## START_CONFIRMATION and GLITCH (R178) -/

/-- The start bit is confirmed: BITS, the NOISY flag as its samples give, and RECEIVING from CLEAR (R178, R153).  It
is taken by the receiver state alone, whatever the samples show (log 9). -/
def confirmStart (noisy : Bool) (s : State) : State :=
  if s.sig.phase = .startCheck then
    (s.onSig fun x => { x with phase := .bits, votes := [], bits := [false], noisy := noisy }).onAccess fun a =>
      if a.condition = .clear then { a with condition := .receiving } else a
  else s

/-- START_CONFIRMATION (R178). -/
def execStartConfirmation (noisy : Bool) (s : State) : Host.Outcome State Fault Refusal :=
  .next (confirmStart noisy s)

/-- The edge was a glitch: it is counted, the stamp is discarded, and the receiver is HUNTING (R178, R9).  It is taken by the
receiver state alone, whatever the samples show (log 9). -/
def glitch (s : State) : State :=
  if s.sig.phase = .startCheck then
    (s.onSig fun x =>
      { x with phase := .hunting, votes := [], bits := [], noisy := false, glitches := satInc x.glitches }).onTb
        fun t => { t with arrival := none }
  else s

/-- GLITCH (R178). -/
def execGlitch (s : State) : Host.Outcome State Fault Refusal :=
  .next (glitch s)

end Sys2Proof.Machine
end

