-- ==== Sys2Proof/Machine/Clock.lean ====
section
/-! DEFINITION. The clock: what the station does by itself when no command waits (log 1).  One idle step takes one
event that is due, or one LRX sample, or begins the next tick. -/

namespace Sys2Proof.Machine

/-! ## Bits of a character (R178, R179, R184) -/

/-- An offset is one of the first two decision samples of a bit of Q samples (9.2). -/
def isEarlyVote (q offset : Nat) : Bool := offset + 1 == q / 2 || offset == q / 2

/-- An offset is the third decision sample of a bit of Q samples (9.2). -/
def isLastVote (q offset : Nat) : Bool := offset == q / 2 + 1

/-- The three decision samples are not all equal (R179). -/
def differ : List Bool → Bool
  | [a, b, c] => a != b || b != c
  | _ => false

/-- The level decided by three decision samples. -/
def decided (votes : List Bool) : Bool := (majorityOf votes).getD true

/-- The value of eight data bits, the least significant first (R179). -/
def valueOf (data : List Bool) : Byte :=
  byte ((data.zipIdx).foldl (fun v b => v + bitOf b.1 * 2 ^ b.2) 0)

/-- The value of the bits decided, start bit first. -/
def charValue (bits : List Bool) : Byte := valueOf ((bits.drop 1).take 8)

/-- A character read back with its flags: none when its start bit is high (R184). -/
def readBackOf (bits : List Bool) (noisy : Bool) : Option ReadBack :=
  match bits with
  | false :: _ => some { value := charValue bits, noisy := noisy, framing := !(bits.getD 9 false) }
  | _ => none

/-! ## The receiver, sample by sample (9.2) -/

/-- A waiting character delivered on this tick (R180). -/
def WaitingChar.deliver (w : WaitingChar) (now : Time) : Instr := .characterDelivered (w.endedAt now)

/-- HUNTING (R177, R180): a falling edge delivers a waiting character first; a waiting character is otherwise
delivered at the end of its stop bit. -/
def Signalling.hunt (now : Time) (level : Bool) (before : Option Bool) (x : Signalling) : Signalling × List Instr :=
  let falling := before == some true && !level
  match x.waiting with
  | none => (x, if falling then [.startEdge] else [])
  | some w =>
    if falling then (x, [w.deliver now, .startEdge])
    else if w.remaining ≤ 1 then (x, [w.deliver now])
    else ({ x with waiting := some { w with remaining := w.remaining - 1 } }, [])

/-- START CHECK (R178), at an offset from the start sample. -/
def Signalling.checkStart (q offset : Nat) (level : Bool) (x : Signalling) : Signalling × List Instr :=
  let votes := level :: x.votes
  if isEarlyVote q offset then ({ x with votes := votes }, [])
  else if isLastVote q offset then
    ({ x with votes := votes }, [if decided votes then .glitch else .startConfirmation (differ votes)])
  else (x, [])

/-- The character whose stop bit has just been decided (R179, R180). -/
def Signalling.complete (q : Nat) (stop noisy : Bool) (x : Signalling) : WaitingChar where
  value := charValue x.bits
  noisy := noisy
  framing := !stop
  startTick := x.startTick
  remaining := q / 2 - 2

/-- BITS (R179), at an offset from the beginning of the bit being decided. -/
def Signalling.decideBit (now : Time) (q offset : Nat) (level : Bool) (x : Signalling) : Signalling × List Instr :=
  let votes := level :: x.votes
  if isEarlyVote q offset then ({ x with votes := votes }, [])
  else if isLastVote q offset then
    let noisy := x.noisy || differ votes
    if x.bits.length < 9 then
      ({ x with votes := [], bits := x.bits ++ [decided votes], noisy := noisy }, [])
    else
      let w := x.complete q (decided votes) noisy
      ({ x with phase := .hunting, votes := [], bits := [], noisy := false, waiting := some w },
        if w.remaining = 0 then [w.deliver now] else [])
  else (x, [])

/-- ECHO (R184), at an offset from the start of the character being read back. -/
def Signalling.readEcho (q offset : Nat) (level : Bool) (x : Signalling) : Signalling × List Instr :=
  let votes := level :: x.votes
  let bit := offset - x.bits.length * q
  let x :=
    if isEarlyVote q bit then { x with votes := votes }
    else if isLastVote q bit then
      { x with votes := [], bits := x.bits ++ [decided votes], noisy := x.noisy || differ votes }
    else x
  (x, if offset + 1 = 10 * q then [.echoCheck (readBackOf x.bits x.noisy)] else [])

/-- The samples from a tick's first sample to a sample of the present tick. -/
def State.samplesSince (s : State) (t : Time) (place : Nat) : Nat := 4 * elapsed s.now t + place

/-- The receiver at a sample of the present tick, by its state (9.2). -/
def State.receive (s : State) (place : Nat) (level : Bool) (before : Option Bool) : Signalling × List Instr :=
  let q := s.samplesPerBit
  let since := s.samplesSince s.sig.startTick place - s.sig.startPlace
  match s.sig.phase with
  | .hunting => s.sig.hunt s.now level before
  | .startCheck => s.sig.checkStart q since level
  | .bits => s.sig.decideBit s.now q (since - s.sig.bits.length * q) level
  | .echo =>
    match s.access.flight with
    | some f => s.sig.readEcho q (s.samplesSince f.start place - s.sig.echoIndex * (10 * q)) level
    | none => (s.sig, [])

/-! ## The held-line detector (R186, R187) -/

/-- The detector at a sample, with the filtered level (R186, R187). -/
def Signalling.detect (q : Nat) (filtered : Option Bool) (x : Signalling) : Signalling × List Instr :=
  match filtered with
  | none => (x, [])
  | some level =>
    if level = x.found then
      let x := { x with runLength := x.runLength + 1 }
      (x, if (if x.found then 10 * q else 40 * q) ≤ x.runLength then [if x.found then .heldEnd else .lineHeld] else [])
    else ({ x with runLength := 0 }, [])

/-! ## One sample of LRX (R176) -/

/-- The level LRX shows: what the outside world gives, else the own drive, else the resting line (log 5). -/
def State.lrxLevel (s : State) : Bool :=
  match s.world.lrx with
  | level :: _ => level
  | [] => s.ltx s.sig.taken

/-- Take one sample: the history, the receiver, then the detector (R176, log 24); what they find joins the queue. -/
def takeSampleOfLine (s : State) : State :=
  let level := s.lrxLevel
  let (x, found) := s.receive s.sig.taken level s.sig.history.head?
  let history := (level :: s.sig.history).take 3
  let (y, held) := Signalling.detect s.samplesPerBit (majorityOf history)
    { x with history := history, taken := s.sig.taken + 1 }
  { s with pending := s.pending ++ found ++ held, sig := y, world := { s.world with lrx := s.world.lrx.drop 1 } }

/-! ## The next tick (R1, R71) -/

/-- An INPUT channel samples its pin (R71). -/
def Channel.samplePin (level : Bool) : Channel → Channel
  | .input i => .input { i with history := (level :: i.history).take 3 }
  | .off => .off
  | .output o => .output o

/-- The levels at the channel pins on the next tick (log 5). -/
def World.nextPins (w : World) : BitVec 8 := w.feed.headD w.pins

/-- The timebase on the next tick (R1). -/
def Timebase.tick (t : Timebase) : Timebase :=
  { t with localTime := t.localTime + 1, slewTaken := false, stepped := none, jumped := false }

/-- Begin the next tick: the local counter advances, the INPUT channels sample their pins, before any command of the tick
(log 35), the rounds of the local counter are counted (log 36), and a receipts BEAT whose condition fails lapses (R1, R71,
R162). -/
def nextTick (s : State) : State :=
  let pins := s.world.nextPins
  lapseReceiptsBeat
    { s with
      tb := s.tb.tick
      chans := Vector.ofFn fun c => Channel.samplePin (pins.getLsbD c.val) s.chans[c]
      access := s.access.countRounds (s.now + 1)
      sig := { s.sig with taken := 0 }
      stepFixed := false
      world := { s.world with pins := pins, feed := s.world.feed.drop 1 } }

/-! ## The events that are due -/

/-- An event when its condition holds. -/
def eventIf (holds : Bool) (event : Instr) : List Instr := if holds then [event] else []

/-- A frame of this tick starts now if it starts: after the first sample (log 19). -/
def State.startPlace (s : State) : Bool := s.sig.taken == 1

/-- The order of a period expiry the clock finds (log 4); the BEAT may come first where a frame of the tick may start. -/
def State.freeOrder (s : State) : ExpiryOrder where
  beatFirst := s.startPlace && Config.freeBeatFirst s.freeCount
  sweepFirst := Config.freeSweepFirst s.freeCount
  changeFirst := Config.freeChangeFirst s.freeCount
  noticeFirst := Config.freeNoticeFirst s.freeCount

/-- The edge an INPUT channel has to take: its first level, or a change of the majority (R71). -/
def inputEvents (c : ChannelNo) : Channel → List Instr
  | .input i =>
    match majorityOf i.history, i.level with
    | some m, none => [.firstInputLevel c m]
    | some m, some l => eventIf (m != l) (.inputEdge c m)
    | none, _ => []
  | .off | .output _ => []

/-- A frame starts at the first sample of this tick (log 19). -/
def State.startDue (s : State) : Bool := s.startPlace && s.starting.isSome

/-- A wait of 1.5 ct from a stop bit's end may be found over: on the tick it runs out, a start edge of that tick has
come by then, so the four samples come first; later, which a glitch alone brings about, it is found at once (R128,
R151, R178, log 34). -/
def State.waitSettled (s : State) (since : Time) : Bool :=
  s.now != plusTicks since s.gapTicks || decide (4 ≤ s.sig.taken)

/-- The gap of the frame in assembly is to be found now (R128, R178). -/
def State.gapDue (s : State) : Bool :=
  s.gapOver && s.frames.assembly.any fun a => s.waitSettled a.lastEnd

/-- The end of cut wait is to be found now (R151, R178). -/
def State.cutWaitDue (s : State) : Bool :=
  s.cutWaitOver && s.access.cutEnd.any s.waitSettled

/-- The condition of the receipts BEAT holds and it is not pending yet (R162). -/
def State.receiptsDue (s : State) : Bool := s.receiptsCondition && !s.access.receiptsPending

/-- The events of the clock whose conditions hold on this tick. -/
def State.dueEvents (s : State) : List Instr :=
  eventIf s.slewDue .slewStep
    ++ eventIf (s.periodExpired && !s.expiryWaits) (.periodExpiry s.freeOrder)
    ++ eventIf s.listenEnded .listenEnd
    ++ eventIf s.lingerOver .lingerExpiry
    ++ (s.post.list.filter s.windowExpired).map (fun p => .responseWindowExpiry p.id)
    ++ (s.post.list.filter s.deadlinePassed).map (fun p => .deadlinePassed p.id)
    ++ eventIf s.headDue .headDue
    ++ (channelNumbers.filter s.edgeReached).map .edgeReached
    ++ channelNumbers.flatMap (fun c => inputEvents c (s.chan c))
    ++ eventIf s.gapDue .gapFound
    ++ eventIf s.cutWaitDue .cutWaitEnd
    ++ eventIf s.receiptsDue .receiptsBeatPending
    ++ eventIf s.startDue .frameStart

/-! ## The idle step -/

/-- The next sample may be taken: the tick has one left, and no start, gap or end of cut wait comes before it (R178,
log 19). -/
def State.sampleDue (s : State) : Bool := s.sig.taken < 4 && !s.startDue && !s.gapDue && !s.cutWaitDue

/-- What an idle step may do: an event that is due, or the next sample (log 3). -/
def State.alternatives (s : State) : List (Option Instr) :=
  s.dueEvents.map some ++ if s.sampleDue then [none] else []

/-- The alternative taken, a free choice when there are several (log 3). -/
def State.choice (s : State) : Option (Option Instr) :=
  match s.alternatives with
  | [] => none
  | [a] => some a
  | choices => choices[Config.freePick s.freeCount % choices.length]?

/-- The clock's step: the chosen event joins the queue, or the next sample is taken, or the next tick begins. -/
def idle (s : State) : State :=
  match s.choice with
  | some (some event) => (s.onPending fun q => q ++ [event]).onFree (· + 1)
  | some none => takeSampleOfLine s
  | none => nextTick s

end Sys2Proof.Machine
end

