-- ==== Sys2Proof/Machine/Dispatch.lean ====
section
/-! DEFINITION. exec: one arm per command, each one call of its meaning. -/

namespace Sys2Proof.Machine

def exec (i : Instr) (s : State) : Host.Outcome State Fault Refusal :=
  match i with
  -- reset, exchanges and requests
  | .reset stn rate => Sys2Proof.Machine.execReset stn rate s
  | .exchangeBegin => Sys2Proof.Machine.execExchangeBegin s
  | .noRequest => Sys2Proof.Machine.execNoRequest s
  | .short clocked partialBits => Sys2Proof.Machine.execShort clocked partialBits s
  | .nop body => Sys2Proof.Machine.execNop body s
  | .configure body => Sys2Proof.Machine.execConfigure body s
  | .openLine body => Sys2Proof.Machine.execOpenLine body s
  | .close body => Sys2Proof.Machine.execClose body s
  | .unmute body => Sys2Proof.Machine.execUnmute body s
  | .restart body => Sys2Proof.Machine.execRestart body s
  | .post body => Sys2Proof.Machine.execPost body s
  | .withdraw body => Sys2Proof.Machine.execWithdraw body s
  | .fetch body => Sys2Proof.Machine.execFetch body s
  | .status body => Sys2Proof.Machine.execStatus body s
  | .stamp body => Sys2Proof.Machine.execStamp body s
  | .roster body => Sys2Proof.Machine.execRoster body s
  -- time
  | .slewStep => Sys2Proof.Machine.execSlewStep s
  | .periodExpiry order => Sys2Proof.Machine.execPeriodExpiry order s
  | .listenEnd => Sys2Proof.Machine.execListenEnd s
  | .lingerExpiry => Sys2Proof.Machine.execLingerExpiry s
  | .responseWindowExpiry id => Sys2Proof.Machine.execResponseWindowExpiry id s
  | .deadlinePassed id => Sys2Proof.Machine.execDeadlinePassed id s
  -- cues and pins
  | .headDue => Sys2Proof.Machine.execHeadDue s
  | .edgeReached channel => Sys2Proof.Machine.execEdgeReached channel s
  | .inputEdge channel level => Sys2Proof.Machine.execInputEdge channel level s
  -- the line
  | .startEdge => Sys2Proof.Machine.execStartEdge s
  | .startConfirmation noisy => Sys2Proof.Machine.execStartConfirmation noisy s
  | .glitch => Sys2Proof.Machine.execGlitch s
  | .characterDelivered char => Sys2Proof.Machine.execCharacterDelivered char s
  | .gapFound => Sys2Proof.Machine.execGapFound s
  | .frameStart => Sys2Proof.Machine.execFrameStart s
  | .echoCheck readBack => Sys2Proof.Machine.execEchoCheck readBack s
  | .cutWaitEnd => Sys2Proof.Machine.execCutWaitEnd s
  | .receiptsBeatPending => Sys2Proof.Machine.execReceiptsBeatPending s
  | .lineHeld => Sys2Proof.Machine.execLineHeld s
  | .heldEnd => Sys2Proof.Machine.execHeldEnd s
  | .unknownRequestCode code body => Sys2Proof.Machine.execUnknownRequestCode code body s
  | .firstInputLevel channel level => Sys2Proof.Machine.execFirstInputLevel channel level s

end Sys2Proof.Machine
end

