-- ==== Sys2Proof/Machine/Step.lean ====
section
/-! DEFINITION. One step of the station: the command at the front of the queue, or the clock. -/

namespace Sys2Proof.Machine

/-- Take the command at the front of the queue; on an empty queue the clock takes its step (log 1). -/
def step (s : State) : Host.Outcome State Fault Refusal :=
  match s.pending with
  | c :: rest => exec c (s.onPending fun _ => rest)
  | [] => .next (idle s)

/-- s with the command a word spells at the front of its queue; s itself when it spells none. -/
def State.withFetchWord (s : State) (nbits w : Nat) : State :=
  match decodeTableWord nbits w with
  | some c => s.onPending fun rest => c :: rest
  | none => s

end Sys2Proof.Machine
end

