-- ==== Sys2Proof/Safety.lean ====
section
/-! DEFINITION. What it is for the station to be safe: the laws of the device, as properties of a state or of a
step. -/

namespace Sys2Proof.Machine

/-- Law 1 (R29): at most 64 held entries, no two with the same key (an entry always has a fire time, by its
type). -/
def Law1 (s : State) : Prop :=
  s.cues.held.length ≤ 64 ∧ (s.cues.held.map HeldEntry.key).Nodup

/-- Law 2 (R31): no key is held and in the recent-key list; with R31's bounds on the list, at most 32 keys and none
twice. -/
def Law2 (s : State) : Prop :=
  (∀ e ∈ s.cues.held, ∀ r ∈ s.cues.recent, e.key ≠ r.key)
    ∧ s.cues.recent.length ≤ 32 ∧ (s.cues.recent.map RecentKey.key).Nodup

/-- Law 3 (R107): reports in the queue plus postings in the list never exceed 48. -/
def Law3 (s : State) : Prop := s.port.queue.length + s.post.list.length ≤ 48

/-- A posting carries at most 4 records or 8 serials (6.1). -/
def PostBody.fits : PostBody → Prop
  | .cue records => records.length ≤ 4
  | .withdraw serials => serials.length ≤ 8

/-- Law 4 (R103): at most 8 postings, no two with the same serial; with R103's word that the list is empty but in
ACTIVE, 6.1's sizes and R106's distinct ids. -/
def Law4 (s : State) : Prop :=
  s.post.list.length ≤ 8 ∧ (s.post.list.flatMap Posting.serials).Nodup
    ∧ (s.post.list.map Posting.id).Nodup ∧ (∀ p ∈ s.post.list, p.body.fits)
    ∧ (s.control.station ≠ .active → s.post.list = [])

/-- Law 6 (R202): the timebase is LOCKED or HOLDOVER only outside PREP. -/
def Law6 (s : State) : Prop :=
  s.tb.tbState = .locked ∨ s.tb.tbState = .holdover → s.control.station ≠ .prep

/-- Law 7 (R157): a frame is started only in ACTIVE or CLOSING, only at the beginning of a slot the station owns,
and never in the first round after a reference that is not GOOD. -/
def Law7 (s t : State) : Prop :=
  s.access.flight = none → t.access.flight ≠ none →
    (s.control.station = .active ∨ s.control.station = .closing)
      ∧ ∃ ref k, s.access.reference = some ref ∧ s.slotBeginning ref = some k
        ∧ slotOwner ref k = some s.sig.own ∧ (ref.good = false → 32 ≤ k)

/-- Law 8 (R118): no expected station of a posting lacks a verdict while its roster entry is ABSENT. -/
def Law8 (s : State) : Prop :=
  ∀ p ∈ s.post.list, ∀ e ∈ p.expected, s.isAbsent e.station = true → Answer.none ∉ e.answers

/-- Law 9 (R56): a run other than IDLE only on an OUTPUT channel (by the type of a channel), outside PREP. -/
def Law9 (s : State) : Prop :=
  ∀ c o, s.chan c = .output o → o.run ≠ .idle → s.control.station ≠ .prep

/-- Law 10 (R124): at most 16 receipts in the list, and at most 8 in a frame. -/
def Law10 (s : State) : Prop :=
  s.access.receipts.length ≤ 16 ∧ ∀ f, s.access.flight = some f → f.receipts ≤ 8

/-- Law 11 (R86, R108): the own roster entry is SELF, and no expected set contains the own number; with R86's word
that every other entry is a peer's. -/
def Law11 (s : State) : Prop :=
  (∀ p, s.entry p = .self ↔ p = s.sig.own)
    ∧ ∀ p ∈ s.post.list, ∀ e ∈ p.expected, e.station ≠ s.sig.own

/-- Law 12 (R145): a frame the station transmits never exceeds 96 characters. -/
def Law12 (s : State) : Prop := ∀ chars, s.frames.copy = some chars → chars.length ≤ 96

end Sys2Proof.Machine
end

