-- ==== Sys2Proof/Certificates/Slice0/Obligations.lean ====
section
/-! DEFINITION. The statements of this row, for the provers.  "Log n" names notes/assumptions/n.md. -/

open Sys2Proof Sys2Proof.Machine

/-! ## Words the statements share -/

/-- The settled request or exchange: what was gathered stands in the request buffer, the reply is in the holder and the
exchange is over (R207 to R209). -/
def Sys2Proof.Machine.State.replied (s : State) (request : List Byte) (status : Status) (body : List Byte) : State :=
  { s with port := { s.port with
      request := request
      holder := { status := status, body := body }
      exchange := none } }

/-- A whole request as the buffer holds it: its code, its body length, its body (11.5). -/
def Sys2Proof.Machine.wholeRequest (code : Byte) (body : List Byte) : List Byte :=
  code :: BitVec.ofNat 8 body.length :: body

/-- The requests that carry no body, with their codes, each with the body it was given (11.5). -/
def Sys2Proof.Machine.bodylessRequests (body : List Byte) : List (Byte × Instr) :=
  [(0, .nop body), (2, .openLine body), (3, .close body), (4, .unmute body), (5, .restart body), (8, .fetch body),
    (9, .status body), (10, .stamp body), (11, .roster body)]

/-- The receipts BEAT's condition (R159): ACTIVE, no other frame pending or in flight, and the oldest receipt appended
more than B/2 ago, the rounds of the local counter included (log 36). -/
def Sys2Proof.Machine.State.receiptsBeatHolds (s : State) : Prop :=
  s.control.station = .active ∧ s.access.leavingPending = false ∧ s.access.due = .none ∧ s.pendingPosting = none
    ∧ s.marks.outgoing = [] ∧ s.access.flight = none
    ∧ ∃ r rest, s.access.receipts = r :: rest ∧ s.beat < 2 * (2 ^ 48 * r.rounds + (s.tb.localTime - r.time).toNat)

/-! ## The step and the clock -/

/-- A step takes the command at the front of the queue: exec of it on the state with the queue's rest. -/
def Obligations.StepTakesTheFrontCommand : Prop :=
  ∀ (c : Instr) (rest : List Instr) (s : State), s.pending = c :: rest → step s = exec c { s with pending := rest }

/-- The majority of three levels (R71, R176). -/
def Sys2Proof.Machine.mostly (a b c : Bool) : Bool := decide (2 ≤ [a, b, c].count true)

/-- The station after one sample of LRX (R176): the level is what the world gives, else the own drive (log 5); the three
most recent are kept; what the receiver finds joins the queue, and then what the held-line detector finds (log 24), which
counts the samples of the filtered level that are low in WATCHING or high in FOUND, to 4 ct or 1 ct (R186, R187). -/
def Sys2Proof.Machine.State.sampled (s : State) : State :=
  let level := s.world.lrx.headD (s.ltx s.sig.taken)
  let history := (level :: s.sig.history).take 3
  let heard := s.receive s.sig.taken level s.sig.history.head?
  let run := match history with
    | [a, b, c] => if mostly a b c = s.sig.found then s.sig.runLength + 1 else 0
    | _ => s.sig.runLength
  let limit := (if s.sig.found then 10 else 40) * (4 * ticksPerBit s.sig.rate)
  let held := if history.length = 3 ∧ limit ≤ run then [if s.sig.found then .heldEnd else .lineHeld] else []
  { s with
    pending := s.pending ++ heard.2 ++ held
    sig := { heard.1 with history := history, taken := s.sig.taken + 1, runLength := run }
    world := { s.world with lrx := s.world.lrx.drop 1 } }

/-- The period timer has run B, outside PREP (R6, log 20). -/
def Sys2Proof.Machine.State.periodOver (s : State) : Prop :=
  s.control.station ≠ .prep ∧ ∃ c since, s.control.config = some c ∧ s.tb.periodStart = some since
    ∧ beatPeriod c.beatCode ≤ (s.tb.localTime - since).toNat

/-- This tick is a multiple of 1,024 of local time and its slew step has not been taken (R3). -/
def Sys2Proof.Machine.State.marksAStep (s : State) : Prop :=
  s.tb.localTime.toNat % 1024 = 0 ∧ s.tb.slewTaken = false

/-- A slew step of this tick is still to come that P, or the P of a period expiry of this tick, may make move the offset: the
watches and the deadlines wait for it (log 18). -/
def Sys2Proof.Machine.State.waitsForStep (s : State) : Prop :=
  s.marksAStep ∧ (s.tb.correction ≠ 0 ∨ s.periodOver)

/-- No start edge is being checked and no character received: 1.5 ct have passed since the end of a stop bit (R128, R151,
log 20), and on the very tick its four samples are taken (log 34). -/
def Sys2Proof.Machine.State.quietSince (s : State) (stopEnd : Time) : Prop :=
  let due := stopEnd + BitVec.ofNat 48 (15 * ticksPerBit s.sig.rate)
  s.sig.phase = .hunting ∧ s.sig.waiting = none ∧ (s.tb.localTime - due).toNat < 2 ^ 47
    ∧ (s.tb.localTime = due → 4 ≤ s.sig.taken)

/-- The station starts a frame on this tick (R154, R157, R158), if one is chosen: the slot count has no limit (log 36). -/
def Sys2Proof.Machine.State.mayBegin (s : State) : Prop :=
  (s.control.station = .active ∨ s.control.station = .closing) ∧ s.access.condition = .clear ∧ s.access.flight = none
    ∧ s.sig.history.head? ≠ some false ∧ ¬ (s.sig.phase = .startCheck ∧ s.sig.startTick = s.tb.localTime)
    ∧ ∃ ref k, s.access.reference = some ref ∧ slotOwner ref k = some s.sig.own
      ∧ 2 ^ 48 * ref.rounds + (s.tb.localTime - ref.endTime).toNat = (3 + k) * (10 * ticksPerBit s.sig.rate)

/-- When the clock has an event of a row on this tick: SLEW_STEP (R3), PERIOD_EXPIRY (R6, R61), LISTEN_END (R196),
LINGER_EXPIRY (R217), a response window (R114), a deadline (R111, not on the tick of a jump: log 17), HEAD_DUE (R42),
EDGE_REACHED (R60), an input edge or first level (R71), the gap (R137), the end of cut wait (R151), the receipts BEAT (R162)
and FRAME_START (R157, after the first sample: log 19); every other row comes from outside, or with a sample. -/
def Sys2Proof.Machine.State.comesDue (s : State) : Instr → Prop
  | .slewStep => s.waitsForStep
  | .periodExpiry order => s.periodOver ∧ ¬ (s.stepFixed = true ∧ s.marksAStep) ∧ order = {
      beatFirst := decide (s.sig.taken = 1) && Config.freeBeatFirst s.freeCount
      sweepFirst := Config.freeSweepFirst s.freeCount
      changeFirst := Config.freeChangeFirst s.freeCount
      noticeFirst := Config.freeNoticeFirst s.freeCount }
  | .listenEnd => s.control.station = .listen ∧ ∃ since, s.control.listenStart = some since
      ∧ 3 * s.beat ≤ (s.tb.localTime - since).toNat
  | .lingerExpiry => ∃ c since, s.control.config = some c ∧ s.port.lingerStart = some since
      ∧ 1000 * c.linger.toNat ≤ (s.tb.localTime - since).toNat
  | .responseWindowExpiry id => ∃ p ∈ s.post.list, p.id = id ∧ p.state = .awaiting
      ∧ ∃ e, p.windowEnd = some e ∧ (s.tb.localTime - e).toNat < 2 ^ 47
  | .deadlinePassed id => ∃ p ∈ s.post.list, p.id = id ∧ p.state = .waiting
      ∧ (∃ d, p.deadline = some d ∧ 2 ^ 47 ≤ ahead d s.shared)
      ∧ (∀ f w, s.access.flight = some f → f.kind = .posting id w → f.lost = true)
      ∧ s.tb.jumped = false ∧ ¬ s.waitsForStep
  | .headDue => s.control.station ≠ .prep ∧ ¬ s.waitsForStep
      ∧ ∃ h ∈ s.cues.held, h.fire = s.shared ∨ s.tb.stepped = some h.fire
  | .edgeReached c => s.control.station ≠ .prep ∧ ¬ s.waitsForStep
      ∧ ∃ o e, s.chan c = .output o ∧ o.run ≠ .idle ∧ o.nextTime = some e ∧ (e = s.shared ∨ s.tb.stepped = some e)
  | .firstInputLevel c level => ∃ i x y z, s.chan c = .input i ∧ i.history = [x, y, z] ∧ i.level = none
      ∧ level = mostly x y z
  | .inputEdge c level => ∃ i x y z, s.chan c = .input i ∧ i.history = [x, y, z] ∧ i.level = some (!level)
      ∧ level = mostly x y z
  | .gapFound => ∃ a, s.frames.assembly = some a ∧ s.quietSince a.lastEnd
  | .cutWaitEnd => s.access.condition = .cutWait ∧ ∃ e, s.access.cutEnd = some e ∧ s.quietSince e
  | .receiptsBeatPending => s.receiptsBeatHolds ∧ s.access.receiptsPending = false
  | .frameStart => s.sig.taken = 1 ∧ s.mayBegin ∧ s.chosen ≠ none
  | _ => False

/-- A step on an empty queue (log 1).  With no event due and the four samples of the tick taken it is the next tick: local
and shared time advance by one (R1, R2), each INPUT channel samples its pin (R71), before any command of the tick (log 35),
and a pending receipts BEAT whose condition fails on the new tick ceases to be pending and loses its count (R159, R162,
log 26); nothing else of the station changes.  What it notes for one tick is log 17, log 18 and log 32, and the rounds of the
local counter it counts are log 36; pins with no feed hold (log 5).  With no event due and samples left, it takes the next
sample (R176); what the receiver makes of it is ReceiverTakesSamplesAndStartEdges.  With events due, it queues one of them, or
takes the next sample unless a start, a gap or an end of cut wait is due, as a free choice has it (log 3).  An event is due
exactly when State.comesDue says so. -/
def Obligations.IdleStepIsTheClock : Prop :=
  (∀ s : State, s.pending = [] → s.dueEvents = [] → 4 ≤ s.sig.taken →
    let comesRound := fun (since : Time) (rounds : Nat) => if s.tb.localTime + 1 = since then rounds + 1 else rounds
    let aged : LineAccess := { s.access with
      reference := s.access.reference.map fun r => { r with rounds := comesRound r.endTime r.rounds }
      receipts := s.access.receipts.map fun r => { r with rounds := comesRound r.time r.rounds } }
    let later : State := { s with tb := { s.tb with localTime := s.tb.localTime + 1 }, access := aged }
    let lapses := s.access.receiptsPending = true ∧ ¬ later.receiptsBeatHolds
    ∃ t, step s = .next t ∧ t.tb.localTime = s.tb.localTime + 1 ∧ t.shared = s.shared + 1
      ∧ t.tb = { s.tb with localTime := s.tb.localTime + 1, slewTaken := false, stepped := none, jumped := false }
      ∧ (∀ c i, s.chan c = .input i →
          t.chan c = .input { i with history := (t.world.pins.getLsbD c.toNat :: i.history).take 3 })
      ∧ (∀ c, (∀ i, s.chan c ≠ .input i) → t.chan c = s.chan c)
      ∧ t.world = { s.world with pins := s.world.feed.headD s.world.pins, feed := s.world.feed.drop 1 }
      ∧ t.sig = { s.sig with taken := 0 }
      ∧ (lapses → t.access = { aged with receiptsPending := false, receiptsCount := 0 })
      ∧ (¬ lapses → t.access = aged)
      ∧ t.pending = [] ∧ t.cues = s.cues ∧ t.marks = s.marks ∧ t.roster = s.roster ∧ t.post = s.post
      ∧ t.frames = s.frames ∧ t.control = s.control ∧ t.port = s.port ∧ t.freeCount = s.freeCount ∧ t.stepFixed = false)
  ∧ (∀ s : State, s.pending = [] → s.dueEvents = [] → s.sig.taken < 4 → step s = .next s.sampled)
  ∧ (∀ s : State, s.pending = [] → s.dueEvents ≠ [] →
      (∃ e ∈ s.dueEvents, step s = .next { s with pending := [e], freeCount := s.freeCount + 1 })
      ∨ s.sig.taken < 4 ∧ .frameStart ∉ s.dueEvents ∧ .gapFound ∉ s.dueEvents ∧ .cutWaitEnd ∉ s.dueEvents
        ∧ step s = .next s.sampled)
  ∧ ∀ (s : State) (event : Instr), event ∈ s.dueEvents ↔ s.comesDue event

/-! ## Reset -/

/-- RESET samples the straps and sets every block to its power-on values, in PREP with no record (R190, R25, R51,
R68, R85, R101, R127, R149, R174, R189, R220).  What it keeps (the commands waiting and the outside world) is
log 7; that no frame end counts as seen (log 23) and that the request buffer is empty (log 8) are the model's own. -/
def Obligations.ResetSetsThePowerOnValues : Prop :=
  ∀ (stn : BitVec 5) (rate : BitVec 2) (s : State),
    ∃ t, exec (.reset stn rate) s = .next t
      ∧ t.control = { station := .prep, config := none, listenStart := none, cause := none }
      ∧ t.tb.localTime = 0 ∧ t.tb.offset = 0 ∧ t.tb.correction = 0 ∧ t.tb.tbState = .solo ∧ t.tb.agreements = 0
      ∧ t.tb.disagreements = 0 ∧ t.tb.holdovers = 0 ∧ t.tb.spread = 0 ∧ t.tb.periodStart = none
      ∧ t.tb.departure = none ∧ t.tb.arrival = none ∧ (∀ p : Fin 32, t.tb.samples[p] = none)
      ∧ t.cues = { held := [], recent := [], installCount := 0 }
      ∧ (∀ c, t.chan c = .off ∧ t.pinDrive c = .highImpedance)
      ∧ t.marks = { nextSeq := 0, outgoing := [], sharedLoss := 0 }
      ∧ t.entry stn = .self
      ∧ (∀ p, p ≠ stn → t.peer? p = some {
            state := .absent, groups := 0, reported := none, lastBeat := none,
            beats := 0, lastSeq := none, missed := 0, mismatch := false })
      ∧ t.roster.twinCount = 0
      ∧ t.post = { list := [], nextSerial := 0, nextId := 0, receiptsDropped := 0 }
      ∧ t.frames = {
            assembly := none, good := 0, broken := 0, overlong := 0, malformed := 0, badCheck := 0,
            stray := 0, noisy := 0, sequence := 0, copy := none }
      ∧ t.access = {
            reference := none, condition := .clear, cutEnd := none, endSeen := false,
            leavingPending := false, leavingCount := 0, due := .none, dueCount := 0, markCount := 0,
            receiptsPending := false, receiptsCount := 0, flight := none, receipts := [], collisions := 0,
            drops := 0, beatsSkipped := 0, heldEpisodes := 0 }
      ∧ t.sig.own = stn ∧ t.sig.rate = rate ∧ t.sig.history = [] ∧ t.sig.phase = .hunting ∧ t.sig.waiting = none
      ∧ t.sig.found = false ∧ t.sig.runLength = 0 ∧ t.sig.glitches = 0 ∧ t.lde = false ∧ (∀ place, t.ltx place = true)
      ∧ t.port = {
            exchange := none, request := [], holder := { status := .nop, body := [] }, queue := [], urgent := 0, lost := 0,
            lingerStart := none, lingerFlag := false }
      ∧ t.lattn = false ∧ t.pending = s.pending ∧ t.world = s.world

/-- The state obeys every law of the device that is a law of one state (Laws 1 to 4, 6 and 8 to 12). -/
def Sys2Proof.Machine.State.lawful (s : State) : Prop :=
  Law1 s ∧ Law2 s ∧ Law3 s ∧ Law4 s ∧ Law6 s ∧ Law8 s ∧ Law9 s ∧ Law10 s ∧ Law11 s ∧ Law12 s

/-- The machine right after reset obeys every law of the device (Laws 1 to 4 and 6, 8 to 12), and so does every state after
a RESET, whatever the straps show (R175, R190).  The straps of the machine right after reset are log 6. -/
def Obligations.LawsHoldAtReset : Prop :=
  State.reset.lawful ∧ ∀ (stn : BitVec 5) (rate : BitVec 2) (s t : State), exec (.reset stn rate) s = .next t → t.lawful

/-! ## Exchanges and the layout check -/

/-- EXCHANGE_BEGIN outside an exchange, where LMISO is at high-impedance: the held reply goes out, with the station state
and the queue count of the tick, after its characters 0x00, each character its most significant bit first (R207).
That the request buffer is emptied at the fall is the model's own, and so is that within an exchange nothing changes
(log 8). -/
def Obligations.ExchangeBeginSendsTheHeldReply : Prop :=
  ∀ s : State,
    (s.port.exchange = none → (∀ n, s.misoChar n = none ∧ s.misoBit n = none) ∧ ∃ t, exec .exchangeBegin s = .next t
      ∧ t = { s with port := { s.port with
          request := []
          exchange := some ([s.port.holder.status.code, byte s.control.station.code, byte s.port.queue.length,
            byte s.port.holder.body.length] ++ s.port.holder.body) } }
      ∧ t.misoChar 0 = some s.port.holder.status.code ∧ t.misoChar 1 = some (byte s.control.station.code)
      ∧ t.misoChar 2 = some (byte s.port.queue.length) ∧ t.misoChar 3 = some (byte s.port.holder.body.length)
      ∧ (∀ n, t.misoChar (n + 4) = some (s.port.holder.body.getD n 0))
      ∧ ∀ n c j, t.misoChar n = some c → j < 8 → t.misoBit (8 * n + j) = some (c.getLsbD (7 - j)))
    ∧ (s.port.exchange ≠ none → exec .exchangeBegin s = .next s)

/-- What the rise of LCS settles (R207, R208, 11.5): the bits clocked in make characters, most significant bit first; none
is no request, a partial character or too few characters are SHORT, and otherwise the code names the request and characters
beyond the stated length are not kept.  NO_REQUEST, NOP and SHORT are answered NOP, NOP and SHORT, and change nothing else
(R208, R210).  That a request is one command, and what the buffer holds after it, are log 8. -/
def Obligations.ExchangesAreSettledByWhatWasClocked : Prop :=
  (∀ (chars : List Byte) (rest : List Bool), rest.length < 8 →
    let bits := chars.flatMap (fun c => [7, 6, 5, 4, 3, 2, 1, 0].map fun i => c.getLsbD i) ++ rest
    (chars = [] → rest = [] → exchangeOf bits = .noRequest)
    ∧ (rest ≠ [] → exchangeOf bits = .short chars rest.length)
    ∧ (rest = [] → chars.length = 1 → exchangeOf bits = .short chars 0)
    ∧ (∀ code len body, rest = [] → chars = code :: len :: body → body.length < len.toNat →
        exchangeOf bits = .short chars 0)
    ∧ (∀ code len body more, rest = [] → chars = code :: len :: (body ++ more) → body.length = len.toNat →
        exchangeOf bits = requestOf code body))
  ∧ (∀ body, (List.range 12).map (fun n => requestOf (byte n) body)
      = [.nop body, .configure body, .openLine body, .close body, .unmute body, .restart body, .post body,
          .withdraw body, .fetch body, .status body, .stamp body, .roster body])
  ∧ (∀ code body, 12 ≤ (code : Byte).toNat → requestOf code body = .unknownRequestCode code body)
  ∧ ∀ s : State, exec .noRequest s = .next (s.replied [] .nop [])
    ∧ exec (.nop []) s = .next (s.replied [0, 0] .nop [])
    ∧ (∀ chars bits, (∀ code len body, chars = code :: len :: body → body.length ≤ (len : Byte).toNat) →
        exec (.short chars bits) s = .next (s.replied chars .short []))
    ∧ ∀ code len body more bits, body.length = (len : Byte).toNat →
        exec (.short (code :: len :: (body ++ more)) bits) s = .next (s.replied (code :: len :: body) .short [])

/-- The two characters of a target (R132). -/
def Sys2Proof.Machine.Target.chars : Target → List Byte
  | .one p => [1, byte p.toNat]
  | .group g => [2, byte g.toNat]
  | .all => [3, 0]

/-- A record from its descriptor on, with the fields it has (R132). -/
def Sys2Proof.Machine.CueSpec.chars (r : CueSpec) : List Byte :=
  let action := match r.action with | .raise => 1 | .lower => 2 | .flip => 3 | .pulse => 4 | .train => 5
  byte (r.channel.toNat + 8 * action + 64 * r.report.toNat + 128 * r.fire.isSome.toNat)
    :: (r.fire.elim [] fun t => bytesOf 6 t.toNat) ++ (r.width.elim [] fun w => bytesOf 3 w.toNat)
      ++ (r.period.elim [] fun p => bytesOf 3 p.toNat) ++ r.count.elim [] fun n => [n]

/-- A record as it travels: a width for PULSE and TRAIN, a period and a count for TRAIN, and for no other action (R132). -/
def Sys2Proof.Machine.CueSpec.whole (r : CueSpec) : Prop :=
  (r.width.isSome ↔ r.action = .pulse ∨ r.action = .train) ∧ (r.period.isSome ↔ r.action = .train)
    ∧ (r.count.isSome ↔ r.action = .train)

/-- The two characters of a sound target (R209). -/
def Sys2Proof.Machine.soundTarget (t1 t2 : Byte) : Prop :=
  t1.toNat = 1 ∧ t2.toNat ≤ 31 ∨ t1.toNat = 2 ∧ t2.toNat ≤ 7 ∨ t1.toNat = 3 ∧ t2.toNat = 0

/-- A sound local record: an action in 1..5, and the size 11.5 gives its descriptor (R209). -/
def Sys2Proof.Machine.soundRecord (record : List Byte) : Prop :=
  ∃ d rest, record = d :: rest ∧ 1 ≤ d.toNat / 8 % 8 ∧ d.toNat / 8 % 8 ≤ 5
    ∧ record.length = (if d.getLsbD 7 then 7 else 1)
        + (if d.toNat / 8 % 8 = 4 then 3 else if d.toNat / 8 % 8 = 5 then 7 else 0)

/-- A sound POST body: a sound target, a record count in 1..4, and that many sound records that end with it (R209). -/
def Sys2Proof.Machine.soundPost (body : List Byte) : Prop :=
  ∃ (t1 t2 count : Byte) (records : List (List Byte)), body = t1 :: t2 :: count :: records.flatten ∧ soundTarget t1 t2
    ∧ 1 ≤ count.toNat ∧ count.toNat ≤ 4 ∧ records.length = count.toNat ∧ ∀ record ∈ records, soundRecord record

/-- A sound WITHDRAW body: a sound target, a count in 1..8, and a length of 3 + count (R209). -/
def Sys2Proof.Machine.soundWithdraw (body : List Byte) : Prop :=
  ∃ (t1 t2 count : Byte) (serials : List Byte), body = t1 :: t2 :: count :: serials ∧ soundTarget t1 t2
    ∧ 1 ≤ count.toNat ∧ count.toNat ≤ 8 ∧ body.length = 3 + count.toNat

/-- A request that fails the layout check is refused BAD_REQUEST and goes no further (R209): an unknown code, a body
on a request that carries none, a CONFIGURE body that is not 66 characters, an unsound POST or WITHDRAW.  The sound ones
are those that give a target with records or serials, and what they give is what 11.5 lays out: the target's characters, the
count, and then each record from its descriptor on, or the serials. -/
def Obligations.UnsoundRequestsAreBadRequest : Prop :=
  ∀ (s : State) (body : List Byte),
    (∀ code, exec (.unknownRequestCode code body) s = .next (s.replied (wholeRequest code body) .badRequest []))
    ∧ (body ≠ [] → ∀ c ∈ bodylessRequests body,
        exec c.2 s = .next (s.replied (wholeRequest c.1 body) .badRequest []))
    ∧ (body.length ≠ 66 → exec (.configure body) s = .next (s.replied (wholeRequest 1 body) .badRequest []))
    ∧ (¬ soundPost body → exec (.post body) s = .next (s.replied (wholeRequest 6 body) .badRequest []))
    ∧ (¬ soundWithdraw body → exec (.withdraw body) s = .next (s.replied (wholeRequest 7 body) .badRequest []))
    ∧ (soundPost body ↔ ∃ target records, postOf body = some (target, records))
    ∧ (soundWithdraw body ↔ ∃ target serials, withdrawOf body = some (target, serials))
    ∧ (∀ target records, postOf body = some (target, records) ↔ 1 ≤ records.length ∧ records.length ≤ 4
        ∧ (∀ r ∈ records, r.whole) ∧ body = target.chars ++ byte records.length :: records.flatMap CueSpec.chars)
    ∧ ∀ target serials, withdrawOf body = some (target, serials) ↔ 1 ≤ serials.length ∧ serials.length ≤ 8
        ∧ body = target.chars ++ byte serials.length :: serials

/-! ## Configuration, opening and closing -/

/-- Field n of a configuration record is not valid, by its range in 10.3 and its codes in 11.5; a channel's settings
count for the mode that uses them (R192). -/
def Sys2Proof.Machine.invalidField (body : List Byte) (n : Nat) : Prop :=
  let one := fun i => (charAt body i).toNat
  let two := fun i => (fieldAt body i).toNat
  n = 2 ∧ 5 < one 2 ∨ n = 3 ∧ two 3 < 16 ∨ n = 4 ∧ (two 5 < 1 ∨ 4095 < two 5 ∨ two 3 < 4 * two 5)
    ∨ n = 5 ∧ one 7 < 1 ∨ n = 7 ∧ (one 9 < 1 ∨ 48 < one 9) ∨ n = 8 ∧ one 10 < 1
    ∨ ∃ c < 8, n = 9 + 6 * c ∧ 2 < one (11 + 7 * c)
      ∨ n = 10 + 6 * c ∧ one (11 + 7 * c) = 1 ∧ 1 < one (12 + 7 * c)
      ∨ n = 11 + 6 * c ∧ one (11 + 7 * c) = 2 ∧ 2 < one (13 + 7 * c)
      ∨ n = 13 + 6 * c ∧ one (11 + 7 * c) = 2 ∧ 1 < one (16 + 7 * c)
      ∨ n = 14 + 6 * c ∧ one (11 + 7 * c) = 2
        ∧ ¬ (one (17 + 7 * c) = 0 ∨ 16 ≤ one (17 + 7 * c) ∧ one (17 + 7 * c) ≤ 23 ∨ one (17 + 7 * c) = 32)

/-- A CONFIGURE of 66 characters (R192, R193): NOT_PREP outside PREP; in PREP BAD_CONFIG with the least field that is not
valid, and nothing else changes; with no such field the record replaces the one before, every channel takes the mode the
record gives it (an OUTPUT at its rest level, IDLE; an INPUT with no samples, R52, R70), the linger flag is cleared and the
timer runs if the queue holds reports (R219), and nothing else changes.  The fields of the record and the modes of its
channels are read from the body's characters as 11.5 lays them out; the settings a mode does not use are not kept. -/
def Obligations.ConfigureIsRefusedOrAccepted : Prop :=
  ∀ (s : State) (body : List Byte), body.length = 66 →
    (s.control.station ≠ .prep → exec (.configure body) s = .next (s.replied (wholeRequest 1 body) .notPrep []))
    ∧ (s.control.station = .prep → ∀ field, invalidField body field → (∀ n < field, ¬ invalidField body n) →
        exec (.configure body) s = .next (s.replied (wholeRequest 1 body) .badConfig [byte field]))
    ∧ (s.control.station = .prep → (∀ field, ¬ invalidField body field) →
      ∃ t, exec (.configure body) s = .next t
        ∧ t.control = { s.control with config := some (configOf body) }
        ∧ (∀ c, t.chan c = match channelModeOf body c.toNat with
            | .off => .off
            | .output rest => .output {
                level := rest, base := rest, run := .idle, nextTime := none, nextEdge := none,
                left := 0, completed := 0, origin := none, width := 0, period := 0, key := none, report := false }
            | .input _ => .input { history := [], level := none, windowEnd := none, suppressed := 0 })
        ∧ t.port = { s.port with
            request := wholeRequest 1 body
            holder := { status := .ok, body := [] }
            exchange := none
            lingerFlag := false
            lingerStart := if s.port.queue = [] then none else some s.tb.localTime }
        ∧ t.pending = s.pending ∧ t.tb = s.tb ∧ t.cues = s.cues ∧ t.marks = s.marks ∧ t.roster = s.roster
        ∧ t.post = s.post ∧ t.frames = s.frames ∧ t.access = s.access ∧ t.sig = s.sig ∧ t.world = s.world
        ∧ t.freeCount = s.freeCount)
    ∧ (∀ n < 66, body[n]? = some (charAt body (n + 1))
        ∧ (fieldAt body (n + 1)).toNat = 256 * (charAt body (n + 1)).toNat + (charAt body (n + 2)).toNat)
    ∧ (configOf body).groups = charAt body 1 ∧ (configOf body).beatCode = charAt body 2
    ∧ (configOf body).jump = fieldAt body 3 ∧ (configOf body).lock = fieldAt body 5
    ∧ (configOf body).holdoverLimit = charAt body 7 ∧ (configOf body).lineDelay = charAt body 8
    ∧ (configOf body).threshold = charAt body 9 ∧ (configOf body).linger = charAt body 10
    ∧ ∀ c : Fin 8, (configOf body).modes[c] = channelModeOf body c ∧
      let one := fun i => (charAt body (i + 7 * c)).toNat
      (one 11 = 0 → channelModeOf body c = .off)
      ∧ (one 11 = 1 → one 12 ≤ 1 → channelModeOf body c = .output (decide (one 12 = 1)))
      ∧ (one 11 = 2 → one 16 ≤ 1 → ∀ sense share,
          one 13 = 0 ∧ sense = .rising ∨ one 13 = 1 ∧ sense = .falling ∨ one 13 = 2 ∧ sense = .both →
          one 17 = 0 ∧ share = .none ∨ (∃ g : GroupNo, one 17 = 16 + g.toNat ∧ share = .group g)
            ∨ one 17 = 32 ∧ share = .all →
          channelModeOf body c = .input {
            sense := sense
            holdoff := fieldAt body (14 + 7 * c)
            localReport := decide (one 16 = 1)
            share := share })

/-- OPEN: NOT_PREP outside PREP; NO_CONFIG with no record; else the station is in LISTEN, the period and listen
timers start, and STATION_STATE is queued with cause OPEN (R195). -/
def Obligations.OpenByState : Prop :=
  ∀ s : State,
    (s.control.station ≠ .prep → exec (.openLine []) s = .next (s.replied [2, 0] .notPrep []))
    ∧ (s.control.station = .prep → s.control.config = none →
        exec (.openLine []) s = .next (s.replied [2, 0] .noConfig []))
    ∧ (s.control.station = .prep → s.control.config ≠ none →
        exec (.openLine []) s = .next (State.replied (queueReport (.stationState .prep .listen .openLine)
          { s with
            tb := { s.tb with periodStart := some s.tb.localTime }
            control := { s.control with
              station := .listen, listenStart := some s.tb.localTime, cause := some .openLine }
            access := { s.access with endSeen := false } }) [2, 0] .ok []))

/-- CLOSE in PREP or CLOSING, and UNMUTE outside MUTED, are answered OK and change nothing; UNMUTE in MUTED leads to
LISTEN, starts the listen timer and queues STATION_STATE with cause UNMUTE (R199, R200). -/
def Obligations.UnmuteByStateAndCloseWithoutEffect : Prop :=
  ∀ s : State,
    (s.control.station = .prep ∨ s.control.station = .closing → exec (.close []) s = .next (s.replied [3, 0] .ok []))
    ∧ (s.control.station ≠ .muted → exec (.unmute []) s = .next (s.replied [4, 0] .ok []))
    ∧ (s.control.station = .muted → exec (.unmute []) s = .next (State.replied
        (queueReport (.stationState .muted .listen .unmute) { s with
          control := { s.control with
            station := .listen, listenStart := some s.tb.localTime, cause := some .unmute }
          access := { s.access with endSeen := false } }) [4, 0] .ok []))

/-- What reaching PREP by CLOSE leaves in every block it clears (R25, R51, R67, R82, R85, R101, R127, R174, R202), with a
cause. -/
def Sys2Proof.Machine.State.clearedFrom (s : State) (c : ConfigRecord) (cause : Cause) (t : State) : Prop :=
  t.control = { station := .prep, config := some c, listenStart := none, cause := some cause }
  ∧ t.tb.tbState = .solo ∧ t.tb.correction = 0 ∧ t.tb.agreements = 0 ∧ t.tb.disagreements = 0
  ∧ t.tb.holdovers = 0 ∧ t.tb.spread = 0 ∧ t.tb.periodStart = none ∧ (∀ p : Fin 32, t.tb.samples[p] = none)
  ∧ t.tb.departure = none ∧ t.tb.arrival = none
  ∧ t.tb.localTime = s.tb.localTime ∧ t.tb.offset = s.tb.offset
  ∧ t.cues = { held := [], recent := [], installCount := 0 }
  ∧ (∀ i rest, c.modes[(i : ChannelNo).toNat] = .output rest → ∀ o, s.chan i = .output o →
      t.chan i = .output {
        level := rest, base := rest, run := .idle, nextTime := none, nextEdge := none,
        left := 0, completed := 0, origin := none, width := 0, period := 0, key := none, report := false })
  ∧ (∀ i x, s.chan i = .input x → t.chan i = .input { x with windowEnd := none, suppressed := 0 })
  ∧ t.marks = { s.marks with outgoing := [], sharedLoss := 0 }
  ∧ t.entry s.sig.own = .self
  ∧ (∀ p, p ≠ s.sig.own → t.peer? p = some {
        state := .absent, groups := 0, reported := none, lastBeat := none,
        beats := 0, lastSeq := none, missed := 0, mismatch := false })
  ∧ t.roster.twinCount = s.roster.twinCount ∧ t.post = s.post
  ∧ t.access.leavingPending = false ∧ t.access.leavingCount = 0 ∧ t.access.due = .none ∧ t.access.dueCount = 0
  ∧ t.access.markCount = 0 ∧ t.access.receiptsPending = false ∧ t.access.receiptsCount = 0 ∧ t.access.receipts = []

/-- The reports of reaching PREP by CLOSE (R22, R203): TIMEBASE_CHANGE when the timebase was not SOLO, then STATION_STATE. -/
def Sys2Proof.Machine.State.prepReports (s : State) (cause : Cause) : List ReportBody :=
  (if s.tb.tbState = .solo then [] else [.timebaseChange s.tb.tbState .solo 0 0])
    ++ [.stationState s.control.station .prep cause]

/-- CLOSE in LISTEN or MUTED reaches PREP at once (R200, R202): the cue table, the recent keys, the mark list, the
receipt list, the sample table and every peer entry are emptied, every run ends, the timers stop, the stamps held are
discarded, the timebase is SOLO with its offset kept, no frame is pending, and the record, the reference, the frame in
assembly and every counter of the frame unit and of line access are kept. -/
def Obligations.CloseReachesPrep : Prop :=
  ∀ (s : State) (c : ConfigRecord), s.control.station = .listen ∨ s.control.station = .muted →
    s.control.config = some c →
    ∃ t, exec (.close []) s = .next t ∧ s.clearedFrom c .close t
      ∧ t.access = { s.access with
          leavingPending := false, leavingCount := 0, due := .none, dueCount := 0, markCount := 0,
          receiptsPending := false, receiptsCount := 0, receipts := [] }
      ∧ t.frames = { s.frames with assembly := s.frames.assembly.map fun a => { a with stamp := none } }
      ∧ t.sig = s.sig ∧ t.pending = s.pending ∧ t.world = s.world
      ∧ t.port.holder = { status := .ok, body := [] } ∧ t.port.exchange = none ∧ t.port.request = [3, 0]
      ∧ (s.port.queue.length + s.post.list.length + 2 ≤ 48 →
          t.port.queue.map Report.body = s.port.queue.map Report.body ++ s.prepReports .close)

/-- CLOSE in ACTIVE (R201): every posting finishes ABANDONED in list order, the other pending frames are withdrawn,
the leaving BEAT is pending with count 0, and STATION_STATE with cause CLOSE is queued last; the outgoing mark list,
the receipt list, the roster, the timebase and the cue table are kept.  A frame in flight is finished on the line; a due
BEAT, a receipts BEAT or a posting's frame has lost its source, a MARK frame keeps it (R168, log 25).  That the MARK
frame's collision count is kept is log 21. -/
def Obligations.CloseFromActive : Prop :=
  ∀ s : State, s.control.station = .active → Law4 s →
    ∃ t, exec (.close []) s = .next t
      ∧ t.control = { s.control with station := .closing, cause := some .close }
      ∧ t.post = { s.post with list := [] }
      ∧ t.access.leavingPending = true ∧ t.access.leavingCount = 0 ∧ t.access.due = .none ∧ t.access.dueCount = 0
      ∧ t.access.receiptsPending = false ∧ t.access.receiptsCount = 0
      ∧ t.access.receipts = s.access.receipts ∧ t.access.reference = s.access.reference
      ∧ t.access.condition = s.access.condition ∧ t.access.markCount = s.access.markCount
      ∧ (s.access.flight = none → t.access.flight = none)
      ∧ (∀ f, s.access.flight = some f → t.access.flight = some (match f.kind with
          | .dueBeat | .receiptsBeat => { f with lost := true }
          | .posting id _ => if id ∈ s.post.list.map Posting.id then { f with lost := true } else f
          | .leavingBeat | .mark _ _ => f))
      ∧ t.port.holder = { status := .ok, body := [] } ∧ t.port.exchange = none ∧ t.port.request = [3, 0]
      ∧ (s.port.queue.length < 48 → t.port.queue.map Report.body = s.port.queue.map Report.body
          ++ s.post.list.map (fun p => .postingDone (p.doneReport .abandoned))
          ++ (if s.port.queue.length + s.post.list.length < 48 then [.stationState .active .closing .close] else []))
      ∧ t.marks = s.marks ∧ t.cues = s.cues ∧ t.tb = s.tb ∧ t.chans = s.chans ∧ t.roster = s.roster
      ∧ t.frames = s.frames ∧ t.sig = s.sig ∧ t.pending = s.pending ∧ t.world = s.world

/-- RESTART in every station state (R191, R220): the power-on values of every block, but that the record, the own
number, the rate, the local counter and the offset are kept, and the channels stand as at the record's acceptance.  What the
request buffer holds after it is log 8; the note of a fixed slew step is log 32. -/
def Obligations.RestartSetsTheRestartValues : Prop :=
  ∀ s : State, ∃ t r, exec (.restart []) s = .next t ∧ exec (.reset s.sig.own s.sig.rate) s = .next r
    ∧ t.control = { station := .prep, config := s.control.config, listenStart := none, cause := none }
    ∧ t.tb.localTime = s.tb.localTime ∧ t.tb.offset = s.tb.offset ∧ t.tb.tbState = .solo ∧ t.tb.correction = 0
    ∧ t.tb.spread = 0 ∧ t.tb.agreements = 0 ∧ t.tb.disagreements = 0 ∧ t.tb.holdovers = 0
    ∧ t.tb.periodStart = none ∧ t.tb.departure = none ∧ t.tb.arrival = none ∧ t.tb.samples = r.tb.samples
    ∧ t.stepFixed = false
    ∧ t.cues = r.cues ∧ t.marks = r.marks ∧ t.roster = r.roster ∧ t.post = r.post ∧ t.frames = r.frames
    ∧ t.access = r.access ∧ t.sig.own = s.sig.own ∧ t.sig.rate = s.sig.rate ∧ t.sig.history = []
    ∧ t.sig.phase = .hunting ∧ t.sig.waiting = none ∧ t.sig.found = false ∧ t.sig.runLength = 0 ∧ t.sig.glitches = 0
    ∧ t.lde = false ∧ (∀ place, t.ltx place = true)
    ∧ (∀ c, t.chan c = match s.control.config with
        | none => .off
        | some record => match record.modes[c.toNat] with
          | .off => .off
          | .output rest => .output {
                level := rest, base := rest, run := .idle, nextTime := none, nextEdge := none,
                left := 0, completed := 0, origin := none, width := 0, period := 0, key := none, report := false }
          | .input _ => .input { history := [], level := none, windowEnd := none, suppressed := 0 })
    ∧ t.port = {
          exchange := none, request := [], holder := { status := .ok, body := [] }, queue := [], urgent := 0, lost := 0,
          lingerStart := none, lingerFlag := false }
    ∧ t.pending = s.pending ∧ t.world = s.world

/-! ## Postings -/

/-- The refusals of a sound POST or WITHDRAW, in the order of R104; a refused request changes nothing.  A serial
fails when a posting of the list carries it or the request named it before (R105). -/
def Obligations.PostAndWithdrawAreRefusedInOrder : Prop :=
  ∀ (s : State) (body : List Byte) (code : Byte) (c : Instr),
    code = 6 ∧ c = .post body ∧ soundPost body ∨ code = 7 ∧ c = .withdraw body ∧ soundWithdraw body →
    let refused := fun (status : Status) (index : List Byte) =>
      exec c s = .next (s.replied (wholeRequest code body) status index)
    (s.control.station ≠ .active → refused .notActive [])
    ∧ (s.control.station = .active → 8 ≤ s.post.list.length → refused .listFull [])
    ∧ (s.control.station = .active → s.post.list.length < 8 → 48 ≤ s.port.queue.length + s.post.list.length →
        refused .noRoom [])
    ∧ (s.control.station = .active → s.post.list.length < 8 → s.port.queue.length + s.post.list.length < 48 →
        (∀ target records, c = .post body → postOf body = some (target, records) →
          ∀ i, ∀ h : i < records.length, records[i].heldAction = none →
            (∀ j, ∀ hj : j < i, (records[j]'(by omega)).heldAction ≠ none) → refused .badRecord [byte (i + 1)])
        ∧ (∀ target serials, c = .withdraw body → withdrawOf body = some (target, serials) →
          ∀ i, ∀ h : i < serials.length, serials[i] ∈ s.carriedSerials ∨ serials[i] ∈ serials.take i →
            (∀ j, ∀ hj : j < i, (serials[j]'(by omega)) ∉ s.carriedSerials
              ∧ (serials[j]'(by omega)) ∉ serials.take j) → refused .badRecord [byte (i + 1)]))

/-- An accepted POST (R104 to R111, R122), whatever its target.  The posting is taken with its id, its serials, its expected
set and its deadline; when the target includes the own number its records are settled in the own cue table one after another
and their verdicts are its self verdicts (R109).  Then: ONE with the own number finishes COMPLETE, a passed deadline finishes
EXPIRED, both in the acceptance event; otherwise it joins the list at its tail, WAITING with nothing sent (R110).  The reply
gives the id and the serials, which are new (R106): as many as asked, no two alike, each the first value in ascending order
from the counter, or from the serial before it, that is not in use, and the counter then stands one past the last; the id is
the first value from its counter that is none of the list's.  The earliest fire time of the
deadline is the one with the smallest ahead distance (R111, log 11); the lost source of a frame in flight is log 25. -/
def Obligations.PostIsAccepted : Prop :=
  (∀ (s : State) (body : List Byte) (target : Target) (specs : List CueSpec),
      postOf body = some (target, specs) → s.control.station = .active → s.post.list.length < 8 →
      s.port.queue.length + s.post.list.length < 48 → (∀ r ∈ specs, r.heldAction ≠ none) →
      let taken := takeSerials s.carriedSerials specs.length s.post.nextSerial
      let records := List.zipWith (fun v r => ({ serial := v, spec := r } : CueRecord)) taken.1 specs
      let deadline := earliest s.shared (specs.filterMap CueSpec.fire)
      let posting : Posting := {
        id := s.freeId
        body := .cue records
        target := target
        expected := s.expectedSet target specs.length
        selfVerdicts := none
        sent := 0
        windowEnd := none
        deadline := deadline
        state := .waiting
        collisions := 0 }
      let joined : State := { s with
        post := { s.post with list := s.post.list ++ [posting], nextSerial := taken.2, nextId := s.freeId + 1 }
        port := { s.port with request := wholeRequest 6 body } }
      let self := if s.includesSelf target then installLocal s.sig.own records joined else (joined, [])
      let verdicts := if s.includesSelf target then some self.2 else none
      let finished := fun (outcome : PostOutcome) => enqueue
        (.postingDone {
          id := s.freeId
          isWithdraw := false
          outcome := outcome
          sent := 0
          count := specs.length
          selfVerdicts := verdicts
          goodCount := 0
          others := s.expectedSet target specs.length })
        { self.1 with
          post := { joined.post with list := s.post.list }
          access := { s.access with flight := s.access.flight.map (Flight.losePosting s.freeId) } }
      let ends := fun t : State =>
        exec (.post body) s = .next (t.replied (wholeRequest 6 body) .ok (s.freeId :: taken.1))
      (target = .one s.sig.own → ends (finished .complete))
      ∧ (target ≠ .one s.sig.own → ∀ d, deadline = some d → isPassed d s.shared = true → ends (finished .expired))
      ∧ (target ≠ .one s.sig.own → (∀ d, deadline = some d → isPassed d s.shared = false) → ends { self.1 with
          post := { joined.post with list := s.post.list ++ [{ posting with selfVerdicts := verdicts }] } }))
  ∧ (∀ (own : StationNo) (u : State), installLocal own [] u = (u, []) ∧ ∀ r rest,
      let settled := installLocal own rest (settleRecord .localPort own r u)
      installLocal own (r :: rest) u
        = (settled.1, u.installVerdict { origin := own, serial := r.serial } r.spec :: settled.2))
  ∧ (∀ (used : List Byte) (n : Nat) (counter : Byte), used.length + n ≤ 256 →
      (takeSerials used n counter).1.length = n ∧ (takeSerials used n counter).1.Nodup
        ∧ (∀ v ∈ (takeSerials used n counter).1, v ∉ used)
        ∧ (1 ≤ n → counter ∉ used → (takeSerials used n counter).1.head? = some counter)
        ∧ (∀ front v back, (takeSerials used n counter).1 = front ++ v :: back →
          let offered := front.getLast?.elim counter (· + 1)
          ∀ k < (v - offered).toNat, offered + BitVec.ofNat 8 k ∈ used ++ front)
        ∧ (takeSerials used n counter).2 = (takeSerials used n counter).1.getLast?.elim counter (· + 1))
  ∧ (∀ s : State, s.post.list.length < 8 → s.freeId ∉ s.post.list.map Posting.id
      ∧ (s.post.nextId ∉ s.post.list.map Posting.id → s.freeId = s.post.nextId)
      ∧ ∀ k < (s.freeId - s.post.nextId).toNat, s.post.nextId + BitVec.ofNat 8 k ∈ s.post.list.map Posting.id)
  ∧ (∀ now : Time, earliest now [] = none ∧ ∀ times, times ≠ [] →
      ∃ d ∈ times, earliest now times = some d ∧ ∀ f ∈ times, ahead d now ≤ ahead f now)

/-- An accepted WITHDRAW (R105, R106, R109, R110, R111, R122), whatever its target.  The posting is taken with its id and the
serials it names, without a deadline; when the target includes the own number its serials are settled in the own cue table
one after another, a held one leaving as WITHDRAWN and the other entries kept (R40, R41), and their verdicts are its self
verdicts.  ONE with the own number finishes COMPLETE in the acceptance event; otherwise it joins the list at its tail.  The
lost source of a frame in flight is log 25. -/
def Obligations.WithdrawIsAccepted : Prop :=
  (∀ (s : State) (body : List Byte) (target : Target) (serials : List Byte),
      withdrawOf body = some (target, serials) → s.control.station = .active → s.post.list.length < 8 →
      s.port.queue.length + s.post.list.length < 48 → serials.Nodup → (∀ v ∈ serials, v ∉ s.carriedSerials) →
      let posting : Posting := {
        id := s.freeId
        body := .withdraw serials
        target := target
        expected := s.expectedSet target serials.length
        selfVerdicts := none
        sent := 0
        windowEnd := none
        deadline := none
        state := .waiting
        collisions := 0 }
      let joined : State := { s with
        post := { s.post with list := s.post.list ++ [posting], nextId := s.freeId + 1 }
        port := { s.port with request := wholeRequest 7 body } }
      let self := if s.includesSelf target then withdrawLocal s.sig.own serials joined else (joined, [])
      let verdicts := if s.includesSelf target then some self.2 else none
      let ends := fun t : State =>
        exec (.withdraw body) s = .next (t.replied (wholeRequest 7 body) .ok (s.freeId :: serials))
      (target = .one s.sig.own → ends (enqueue
        (.postingDone {
          id := s.freeId
          isWithdraw := true
          outcome := .complete
          sent := 0
          count := serials.length
          selfVerdicts := verdicts
          goodCount := 0
          others := [] })
        { self.1 with
          post := { joined.post with list := s.post.list }
          access := { s.access with flight := s.access.flight.map (Flight.losePosting s.freeId) } }))
      ∧ (target ≠ .one s.sig.own → ends { self.1 with
          post := { joined.post with list := s.post.list ++ [{ posting with selfVerdicts := verdicts }] } }))
  ∧ (∀ (own : StationNo) (u : State), withdrawLocal own [] u = (u, []) ∧ ∀ v rest,
      let key : CueKey := { origin := own, serial := v }
      let settled := withdrawLocal own rest
        (if u.cues.holds key then { u with cues := u.cues.leave key .withdrawn } else u)
      withdrawLocal own (v :: rest) u = (settled.1, u.withdrawVerdict key :: settled.2))

/-- The expected set by target (R108): ONE with the own number expects nobody; ONE with another station expects it,
its verdicts GONE if it is ABSENT; GROUP and ALL expect the PRESENT peers of the group, or all of them, with no verdict
yet; and the own number is in none. -/
def Obligations.ExpectedSetByTarget : Prop :=
  ∀ (s : State) (n : Nat), (∀ p, s.entry p = .self ↔ p = s.sig.own) →
    s.expectedSet (.one s.sig.own) n = []
    ∧ (∀ p, p ≠ s.sig.own → s.expectedSet (.one p) n =
        [{ station := p, answers := List.replicate n (if s.isAbsent p then .gone else .none) }])
    ∧ (∀ g e, e ∈ s.expectedSet (.group g) n ↔ e.answers = List.replicate n .none
        ∧ ∃ x, s.peer? e.station = some x ∧ x.state = .present ∧ x.groups.getLsbD g.toNat = true)
    ∧ (∀ e, e ∈ s.expectedSet .all n ↔ e.answers = List.replicate n .none
        ∧ ∃ x, s.peer? e.station = some x ∧ x.state = .present)
    ∧ (∀ target, ∀ e ∈ s.expectedSet target n, e.station ≠ s.sig.own)
    ∧ (∀ target, ((s.expectedSet target n).map fun e => e.station.toNat).Pairwise (· < ·))

/-- Every expected station has an answer for every record or serial (R117). -/
def Sys2Proof.Machine.Posting.allAnswered (p : Posting) : Prop := ∀ e ∈ p.expected, Answer.none ∉ e.answers

/-- A receipt at the origin (R116): one whose origin is another station, whose serial no posting carries, whose sender the
posting does not expect, or whose verdict is not one of its kind, is ignored; a matched one replaces the answer of that
station for that serial, and nothing else of the list.  The ABSENT notice (R118): at every posting that expects the station
its missing answers become GONE.  After either, a posting sent at least once with no answer missing finishes COMPLETE in the
same event, in list order (R117, R122).  The lost source of a frame in flight is log 25. -/
def Obligations.ReceiptsAndAbsencesAnswerPostings : Prop :=
  (∀ (s : State) (station : StationNo) (r : Receipt), (s.post.list.map Posting.id).Nodup →
    (s.post.list.flatMap Posting.serials).Nodup →
    (r.key.origin ≠ s.sig.own ∨ (∀ p ∈ s.post.list, r.key.serial ∉ p.serials) → takeReceipt station r s = s)
    ∧ (∀ p ∈ s.post.list, r.key.origin = s.sig.own → r.key.serial ∈ p.serials →
      let fits := match p.body with
        | .cue _ => r.verdict ≠ .tooLate ∧ r.verdict ≠ .unknown
        | .withdraw _ => r.verdict = .withdrawn ∨ r.verdict = .tooLate ∨ r.verdict = .unknown
      let stored : Posting := { p with expected := p.expected.map fun e =>
        if e.station = station then { e with
          answers := List.zipWith (fun serial a => if serial = r.key.serial then .given r.verdict else a)
            p.serials e.answers }
        else e }
      ((∀ e ∈ p.expected, e.station ≠ station) ∨ ¬ fits → takeReceipt station r s = s)
      ∧ ((∃ e ∈ p.expected, e.station = station) → fits →
        (¬ (1 ≤ p.sent ∧ stored.allAnswered) → takeReceipt station r s = { s with post := { s.post with
          list := s.post.list.map fun q => if q.id = p.id then stored else q } })
        ∧ (1 ≤ p.sent → stored.allAnswered →
          takeReceipt station r s = enqueue (.postingDone (stored.doneReport .complete)) { s with
            post := { s.post with list := s.post.list.eraseP fun q => q.id = p.id }
            access := { s.access with flight := s.access.flight.map (Flight.losePosting p.id) } }))))
  ∧ (∀ (s : State) (station : StationNo), (s.post.list.map Posting.id).Nodup →
    let gone := fun p : Posting => { p with expected := p.expected.map fun e =>
      if e.station = station then { e with answers := e.answers.map fun a => if a = .none then .gone else a } else e }
    let ends := fun p : Posting => p.expects station && decide (1 ≤ p.sent)
      && (gone p).expected.all fun e => !e.answers.contains .none
    let done := s.post.list.filter ends
    let t := absentNotice station s
    t.post = { s.post with list := (s.post.list.filter fun p => !ends p).map gone }
    ∧ t.port.queue.map Report.body = s.port.queue.map Report.body
        ++ done.map (fun p => .postingDone ((gone p).doneReport .complete))
    ∧ t.access = { s.access with flight := s.access.flight.map fun f => match f.kind with
        | .posting id _ => if id ∈ done.map Posting.id then { f with lost := true } else f
        | .leavingBeat | .dueBeat | .mark _ _ | .receiptsBeat => f }
    ∧ t = { s with post := t.post, port := t.port, access := t.access })

/-- The expiry of a response window (R114): with fewer than 4 transmissions and the deadline absent or ahead the
posting waits again, with no window; otherwise it finishes INCOMPLETE.  A passed deadline of a WAITING posting whose own
frame is not in transmission (R111, R112, R114), whether or not another frame is in flight: EXPIRED when it was never sent,
INCOMPLETE when it waits for a resend.  The report takes its reserved place.  That the window expires on any tick from its
end on is log 20; the lost source of a frame in flight is log 25; the tick of a jump and of a slew step is log 17 and
log 18. -/
def Obligations.ResponseWindowsAndDeadlines : Prop :=
  (∀ (s : State) (p : Posting) (e : Time), s.posting? p.id = some p → p.state = .awaiting → p.windowEnd = some e →
    (s.tb.localTime - e).toNat < 2 ^ 47 →
    (p.sent < 4 ∧ (∀ d, p.deadline = some d → 1 ≤ ahead d s.shared ∧ ahead d s.shared ≤ 2 ^ 36) →
      exec (.responseWindowExpiry p.id) s = .next { s with post := { s.post with
        list := s.post.list.map fun q => if q.id = p.id then { p with state := .waiting, windowEnd := none } else q } })
    ∧ (¬ (p.sent < 4 ∧ (∀ d, p.deadline = some d → 1 ≤ ahead d s.shared ∧ ahead d s.shared ≤ 2 ^ 36)) →
      exec (.responseWindowExpiry p.id) s = .next (enqueue (.postingDone (p.doneReport .incomplete))
        { s with
          post := { s.post with list := s.post.list.eraseP fun q => q.id = p.id }
          access := { s.access with flight := s.access.flight.map (Flight.losePosting p.id) } })))
  ∧ (∀ (s : State) (p : Posting) (d : Time), s.posting? p.id = some p → p.state = .waiting → p.deadline = some d →
    2 ^ 47 ≤ ahead d s.shared → s.tb.jumped = false → s.slewDue = false →
    ((∀ f w, s.access.flight = some f → f.kind = .posting p.id w → f.lost = true) →
      exec (.deadlinePassed p.id) s = .next (enqueue
        (.postingDone (p.doneReport (if p.sent = 0 then .expired else .incomplete)))
        { s with post := { s.post with list := s.post.list.eraseP fun q => q.id = p.id } }))
    ∧ (∀ f w, s.access.flight = some f → f.kind = .posting p.id w → f.lost = false →
      exec (.deadlinePassed p.id) s = .next s))

/-! ## Reports and attention -/

/-- A report of any block but the posting unit is admitted at the tail while reports and reservations stand below 48,
takes the lost count, counts as urgent if it is a LINE_EVENT or STATION_STATE, and restarts the linger timer while a
record is held; otherwise it is lost and counted (R211, R212, R216).  LINGER_EXPIRY once the linger time has run sets
the flag and stops the timer (R217); from that tick on, by log 20. -/
def Obligations.ReportsAndTheLingerTimer : Prop :=
  ∀ (s : State),
    (∀ b : ReportBody, s.port.queue.length + s.post.list.length < 48 →
      queueReport b s = { s with port := { s.port with
        queue := s.port.queue ++ [{ lostBefore := s.port.lost, body := b }]
        lost := 0
        urgent := s.port.urgent + (if b.kindCode = 8 ∨ b.kindCode = 9 then 1 else 0)
        lingerStart := if s.control.config = none then none else some s.tb.localTime } })
    ∧ (∀ b : ReportBody, 48 ≤ s.port.queue.length + s.post.list.length →
      queueReport b s = { s with port := { s.port with
        lost := if s.port.lost = 255 then 255 else s.port.lost + 1 } })
    ∧ (∀ c since, s.control.config = some c → s.port.lingerStart = some since →
      1000 * c.linger.toNat ≤ (s.tb.localTime - since).toNat →
      exec .lingerExpiry s = .next { s with port := { s.port with lingerFlag := true, lingerStart := none } })

/-- The output pins.  LATTN (R218): high exactly while the queue count is at the threshold in force, an urgent report waits,
or the linger flag is set; low after a reset, after a RESTART, and after a FETCH that leaves the queue empty.  A channel pin
(R52, R53, R68): an OUTPUT channel drives its level in every station state, an INPUT or OFF one is at high-impedance.  LDE and
LTX (R182, R183): while a frame is sent, character n of the copy stands on LTX from n ct after the start, one bit time each of
a low start bit, the eight data bits least significant first and a high stop bit; LTX is high after the last character, and
whenever LDE is low. -/
def Obligations.OutputPinsShowTheState : Prop :=
  ∀ s : State,
    ((∀ c, s.control.config = some c → 1 ≤ c.threshold.toNat) →
      (s.lattn = true ↔ (∃ c, s.control.config = some c ∧ c.threshold.toNat ≤ s.port.queue.length)
        ∨ (s.control.config = none ∧ 1 ≤ s.port.queue.length) ∨ 0 < s.port.urgent ∨ s.port.lingerFlag = true)
      ∧ (∀ stn rate t, exec (.reset stn rate) s = .next t → t.lattn = false)
      ∧ (∀ t, exec (.restart []) s = .next t → t.lattn = false)
      ∧ (∀ t, exec (.fetch []) s = .next t → t.port.queue = [] → t.lattn = false))
    ∧ (∀ c, (s.chan c = .off → s.pinDrive c = .highImpedance) ∧ (∀ i, s.chan c = .input i → s.pinDrive c = .highImpedance)
      ∧ ∀ o, s.chan c = .output o → s.pinDrive c = .driven o.level)
    ∧ s.lde = s.sig.driving
    ∧ (s.lde = false ∨ s.access.flight = none ∨ s.frames.copy = none → ∀ place, s.ltx place = true)
    ∧ ∀ f chars place, s.lde = true → s.access.flight = some f → s.frames.copy = some chars →
      let q := 4 * ticksPerBit s.sig.rate
      let now := 4 * (s.tb.localTime - f.start).toNat + place
      (∀ n c j, chars[n]? = some c → j < 10 → (10 * n + j) * q ≤ now → now < (10 * n + j + 1) * q →
        s.ltx place = if j = 0 then false else if j = 9 then true else c.getLsbD (j - 1))
      ∧ (10 * chars.length * q ≤ now → s.ltx place = true)

/-- Verdict codes packed two to a character, the first in bits 0..3 (11.5). -/
def Sys2Proof.Machine.packedCodes (codes : List Nat) : List Byte :=
  (List.range ((codes.length + 1) / 2)).map fun k => byte (codes.getD (2 * k) 0 + 16 * codes.getD (2 * k + 1) 0)

/-- A mark as M1 to M10 (R133). -/
def Sys2Proof.Machine.MarkRecord.chars (m : MarkRecord) : List Byte :=
  bytesOf 2 m.seq.toNat ++ [byte (m.channel.toNat + 8 * m.fall.toNat + 16 * m.tbState.code)]
    ++ bytesOf 6 m.stamp.toNat ++ [m.suppressed]

/-- The kind and the body characters of a report (11.5).  The kind of a twin frame is its H1 code (log 40); TROUBLE carries
posting id 0 for a frame that is no posting's, and 0 marks for one that is no MARK frame (log 41). -/
def Sys2Proof.Machine.ReportBody.laidOut : ReportBody → Nat × List Byte
  | .localMark m => (1, m.chars)
  | .peerMark p m loss => (2, byte p.toNat :: m.chars ++ [loss])
  | .cueFired f => (3, [byte f.key.origin.toNat, f.key.serial,
      byte (f.channel.toNat + 8 * (decide (f.path = .localPort)).toNat + 16 * f.installNo.isSome.toNat
        + 32 * f.fire.isSome.toNat + 64 * f.late.toNat), byte f.tbState.code]
      ++ bytesOf 2 (f.installNo.getD 0).toNat ++ bytesOf 6 (f.fire.getD 0).toNat ++ bytesOf 6 f.time.toNat)
  | .cueCut x => (4, [byte x.key.origin.toNat, x.key.serial,
      byte (x.channel.toNat + (if x.cutting = none then 8 else 16)), byte x.completed, byte x.count]
      ++ (match x.cutting with | some k => [byte k.origin.toNat, k.serial] | none => [0, 0]) ++ bytesOf 6 x.time.toNat)
  | .postingDone d => (5, [d.id, byte (d.outcome.code + 16 * d.isWithdraw.toNat + 32 * d.selfVerdicts.isSome.toNat),
      byte d.sent, byte d.count]
      ++ packedCodes ((d.selfVerdicts.getD []).map Verdict.code) ++ [byte d.goodCount, byte d.others.length]
      ++ d.others.flatMap fun e => byte e.station.toNat :: packedCodes (e.answers.map Answer.code))
  | .rosterChange p old new cause => (6, [byte p.toNat, byte (old.code + 16 * new.code), byte cause.code])
  | .timebaseChange old new c w => (7, byte (old.code + 16 * new.code)
      :: bytesOf 6 (signedField Config.freeCorrection c).toNat ++ bytesOf 2 w.toNat)
  | .lineHeld shared => (8, 1 :: bytesOf 6 shared.toNat)
  | .lineTrouble kind id marks => (8, [2, byte kind.code, id, byte marks])
  | .lineTwin count kind sequence => (8, [3, count, kind, sequence])
  | .lineMismatch p heard own => (8, [4, byte p.toNat, heard, own])
  | .stationState old new cause => (9, [byte (old.code + 16 * new.code), byte cause.code])

/-- FETCH (R214, R216, R217): it takes the most reports from the head that number at most 4 and do not exceed 240
characters together, and answers with their number and the reports in order; the linger flag is cleared, and the timer
restarts if reports are left and a record is held.  Each report is its kind, its lost-before count, its body length and its
body, laid out with the codes of 11.5 and R134; a correction C that does not fit its 48 bits is a free value (log 27). -/
def Obligations.FetchTakesFromTheHead : Prop :=
  (∀ s : State, ∃ n, n ≤ 4 ∧ n ≤ s.port.queue.length ∧ ((s.port.queue.take n).map Report.size).sum ≤ 240
    ∧ (n = 4 ∨ n = s.port.queue.length ∨ 240 < ((s.port.queue.take (n + 1)).map Report.size).sum)
    ∧ exec (.fetch []) s = .next { s with port := { s.port with
        request := [8, 0]
        holder := { status := .ok, body := byte n :: (s.port.queue.take n).flatMap Report.bytes }
        exchange := none
        queue := s.port.queue.drop n
        urgent := if s.port.queue.drop n = [] then 0
          else s.port.urgent - ((s.port.queue.take n).filter fun r => r.body.urgent).length
        lingerFlag := false
        lingerStart := if s.port.queue.drop n = [] ∨ s.control.config = none then none
          else some s.tb.localTime } })
  ∧ (∀ r : Report, let body := r.body.laidOut.2
      r.bytes = [byte r.body.laidOut.1, r.lostBefore, byte body.length] ++ body ∧ r.size = 3 + body.length)
  ∧ [StationState.prep, .listen, .active, .muted, .closing].map StationState.code = [0, 1, 2, 3, 4]
  ∧ [TbState.solo, .gathering, .locked, .holdover].map TbState.code = [0, 1, 2, 3]
  ∧ [PeerState.absent, .joining, .present, .silent].map PeerState.code = [0, 1, 2, 3]
  ∧ [Cause.openLine, .listenEnd, .twin, .unmute, .close, .left, .leaveDropped].map Cause.code = [1, 2, 3, 4, 5, 6, 7]
  ∧ [RosterCause.beat, .sweep, .leaving].map RosterCause.code = [1, 2, 3]
  ∧ [PostOutcome.complete, .incomplete, .expired, .lineFailed, .abandoned].map PostOutcome.code = [1, 2, 3, 4, 5]
  ∧ [TroubleKind.dueBeat, .receiptsBeat, .leavingBeat, .cue, .withdraw, .mark].map TroubleKind.code = [1, 2, 3, 4, 5, 6]
  ∧ [Answer.none, .given .held, .given .duplicate, .given .done, .given .withdrawn, .given .stale, .given .far,
      .given .full, .given .noChannel, .given .malformed, .given .tooLate, .given .unknown, .gone].map Answer.code
    = [0, 1, 2, 3, 4, 5, 6, 7, 8, 9, 10, 11, 12]
  ∧ (∀ v : Verdict, v.code = (Answer.given v).code)
  ∧ (∀ n, bytesOf 2 n = [byte (n / 2 ^ 8), byte n] ∧ bytesOf 3 n = [byte (n / 2 ^ 16), byte (n / 2 ^ 8), byte n]
      ∧ bytesOf 6 n = [byte (n / 2 ^ 40), byte (n / 2 ^ 32), byte (n / 2 ^ 24), byte (n / 2 ^ 16), byte (n / 2 ^ 8), byte n])
  ∧ ∀ x : Int, -2 ^ 47 ≤ x → x < 2 ^ 47 → signedField Config.freeCorrection x = BitVec.ofInt 48 x

/-- Characters 18 to 113 of STATUS at one channel (11.5, R69, R84); an item that is not present is 0 (log 37). -/
def Sys2Proof.Machine.Channel.shown : Channel → List Byte
  | .off => List.replicate 12 0
  | .output o =>
    [byte (1 + 4 * o.level.toNat + 16 * (match o.run with | .idle => 0 | .pulse => 1 | .train => 2)
      + 64 * o.nextTime.isSome.toNat)]
      ++ (match o.key with
        | some k => [byte (k.origin.toNat + 128), k.serial]
        | none => [0, 0])
      ++ [byte o.completed, byte o.left] ++ bytesOf 6 (o.nextTime.getD 0).toNat ++ [0]
  | .input i =>
    [byte (2 + 4 * (i.level.getD false).toNat + 8 * i.level.isSome.toNat + 64 * i.windowEnd.isSome.toNat), i.suppressed]
      ++ bytesOf 6 (i.windowEnd.getD 0).toNat ++ [0, 0, 0, 0]

/-- The STATUS reply by its blocks (11.5), each with its first character and its length. -/
def Sys2Proof.Machine.State.statusBlocks (s : State) : List (Nat × Nat × List Byte) :=
  let left : Option Nat := match s.control.station, s.control.listenStart with
    | .listen, some since => some (3 * s.beat - (s.tb.localTime - since).toNat)
    | _, _ => none
  let entries := fun state : PeerState => byte (stations.filter fun p => (s.peer? p).map Peer.state = some state).length
  let count16 := fun c : Count16 => bytesOf 2 c.toNat
  let a := s.access
  let u := s.frames
  [(0, 7, [byte (match s.control.station with | .prep => 0 | .listen => 1 | .active => 2 | .muted => 3 | .closing => 4),
      byte (s.control.config.isSome.toNat + 2 * left.isSome.toNat),
      byte (match s.control.cause with
        | none => 0 | some .openLine => 1 | some .listenEnd => 2 | some .twin => 3 | some .unmute => 4
        | some .close => 5 | some .left => 6 | some .leaveDropped => 7)] ++ bytesOf 4 (left.getD 0)),
    (7, 10, [byte s.cues.held.length] ++ bytesOf 6 ((s.cues.held.head?.map HeldEntry.fire).getD 0).toNat
      ++ [byte s.cues.recent.length] ++ count16 s.cues.installCount),
    (17, 96, channelNumbers.flatMap fun c => (s.chan c).shown),
    (113, 4, count16 s.marks.nextSeq ++ [byte s.marks.outgoing.length, s.marks.sharedLoss]),
    (117, 5, [entries .absent, entries .joining, entries .present, entries .silent, s.roster.twinCount]),
    (122, 7, [byte s.post.list.length, byte s.post.list.length, s.post.nextSerial, s.post.nextId, byte a.receipts.length]
      ++ count16 s.post.receiptsDropped),
    (129, 15, count16 u.good ++ count16 u.broken ++ count16 u.overlong ++ count16 u.malformed ++ count16 u.badCheck
      ++ count16 u.stray ++ count16 u.noisy ++ [u.sequence]),
    (144, 31, [byte (match a.condition with
        | .clear => 0 | .receiving => 1 | .sending => 2 | .cutWait => 3 | .held => 4)]
      ++ (match a.reference with
        | some r => [byte (1 + 2 * r.good.toNat)] ++ bytesOf 6 r.endTime.toNat
            ++ [byte ((r.sender.map BitVec.toNat).getD 0)]
        | none => List.replicate 8 0)
      ++ [byte (match a.due with | .none => 0 | .pending => 1 | .inFlight => 2 | .renewed => 3),
        byte (a.leavingPending.toNat + 2 * (decide (a.due = .pending)).toNat + 4 * s.markPending.toNat
          + 8 * s.receiptsBeatPending.toNat + 16 * s.pendingPosting.isSome.toNat),
        byte a.leavingCount, byte a.dueCount, byte a.markCount, byte a.receiptsCount]
      ++ ((s.post.list.map fun (p : Posting) => byte p.collisions) ++ List.replicate 8 0xFF).take 8
      ++ count16 a.collisions ++ count16 a.drops ++ count16 a.beatsSkipped ++ count16 a.heldEpisodes),
    (175, 4, [byte (s.sig.own.toNat + 64 * s.sig.rate.toNat),
      byte ((s.filtered.getD false).toNat + 2 * s.filtered.isSome.toNat + 4 * s.sig.found.toNat)] ++ count16 s.sig.glitches),
    (179, 3, [byte s.port.queue.length, s.port.lost,
      byte (s.lattn.toNat + 2 * (decide (0 < s.port.urgent)).toNat + 4 * s.port.lingerFlag.toNat
        + 8 * s.port.lingerStart.isSome.toNat)])]

/-- STAMP, ROSTER and STATUS are answered from figures and change nothing else (R24, R100, R215), each field in its
characters, the most significant first.  STAMP: the shared time, the timebase state, W, and P in its 24 bits, two's
complement (a free value where it does not fit, log 27).  ROSTER: the entries that are not ABSENT in ascending order, seven
characters each, behind their number.  STATUS: 182 characters, every block at its place (11.5).  Fields that are not present
are 0 (log 37), the places of postings that are not there 0xFF (log 29), and when the receipts BEAT counts as pending is
log 26. -/
def Obligations.ReadRequestsAnswerFromFigures : Prop :=
  (∀ n v k, k < n → (bytesOf n v).length = n ∧ (bytesOf n v)[k]? = some (byte (v / 256 ^ (n - 1 - k))))
  ∧ ∀ s : State,
    exec (.stamp []) s = .next (s.replied [10, 0] .ok
      (bytesOf 6 (s.tb.localTime + s.tb.offset).toNat ++ [byte s.tb.tbState.code] ++ bytesOf 2 s.tb.spread.toNat
        ++ bytesOf 3 (signedField Config.freePending s.tb.correction).toNat))
    ∧ exec (.roster []) s = .next (s.replied [11, 0] .ok
        (byte (stations.filter fun p => !s.isAbsent p).length :: stations.flatMap s.rosterBytes))
    ∧ (∀ p, (s.entry p = .self → s.rosterBytes p =
          [byte p.toNat, (s.control.config.map ConfigRecord.groups).getD 0, byte s.tb.tbState.code, 0, 0, 0, 0])
      ∧ ∀ e, s.peer? p = some e →
        (e.state = .absent → s.rosterBytes p = [])
        ∧ ∀ code, e.state = .joining ∧ code = 1 ∨ e.state = .present ∧ code = 2 ∨ e.state = .silent ∧ code = 3 →
          ∀ reported last, e.reported = some reported → e.lastBeat = some last →
          s.rosterBytes p = [byte (p.toNat + 32 * code + 128 * e.mismatch.toNat), e.groups, byte reported.code]
            ++ bytesOf 2 (min 65535 ((s.tb.localTime - last).toNat / 1000)) ++ bytesOf 2 e.missed.toNat)
    ∧ [TbState.solo, .gathering, .locked, .holdover].map TbState.code = [0, 1, 2, 3]
    ∧ ∃ body, exec (.status []) s = .next (s.replied [9, 0] .ok body) ∧ body.length = 182
      ∧ ∀ block ∈ s.statusBlocks, block.2.2.length = block.2.1 ∧ (body.drop block.1).take block.2.1 = block.2.2

/-! ## The timebase -/

/-- A slew step (R3), on a tick at which local time is a multiple of 1,024: the offset moves one tick toward P, so that
against the tick before shared time advances by two, by one, or stands still, as P is above, at or below 0.  That the
step of a tick is taken once, and the shared time stepped over, are the model's own (log 18). -/
def Obligations.SlewStepMovesTheOffset : Prop :=
  ∀ s : State, s.tb.localTime.toNat % 1024 = 0 → s.tb.slewTaken = false →
    (0 < s.tb.correction → ∃ t, exec .slewStep s = .next t ∧ t.shared = (s.shared - 1) + 2
      ∧ t = { s with tb := { s.tb with
          offset := s.tb.offset + 1
          correction := s.tb.correction - 1
          stepped := some s.shared
          slewTaken := true } })
    ∧ (s.tb.correction = 0 → ∃ t, exec .slewStep s = .next t ∧ t.shared = (s.shared - 1) + 1
      ∧ t = { s with tb := { s.tb with slewTaken := true } })
    ∧ (s.tb.correction < 0 → ∃ t, exec .slewStep s = .next t ∧ t.shared = s.shared - 1
      ∧ t = { s with tb := { s.tb with
          offset := s.tb.offset - 1
          correction := s.tb.correction + 1
          slewTaken := true } })

/-- An evaluation that starts in a state jumps: SOLO or GATHERING, and |C| exceeds J (R18). -/
def Sys2Proof.Machine.jumpsFrom (c : ConfigRecord) (start : TbState) (correction : Int) : Prop :=
  (start = .solo ∨ start = .gathering) ∧ (c.jump.toNat : Int) < |correction|

/-- A peer entry after the sweep of a period expiry at a local time (R91, R92). -/
def Sys2Proof.Machine.Peer.swept (beat : Nat) (now : Time) (x : Peer) : Peer :=
  match x.lastBeat with
  | none => x
  | some last =>
    if x.state = .present ∧ 3 * beat < (now - last).toNat then { x with state := .silent }
    else if x.state = .joining ∧ 3 * beat < (now - last).toNat
        ∨ x.state = .silent ∧ 8 * beat < (now - last).toNat then {
      state := .absent
      groups := 0
      reported := none
      lastBeat := none
      beats := 0
      lastSeq := none
      missed := x.missed
      mismatch := x.mismatch }
    else x

/-- What a sweep tells, entry by entry in ascending order of station number: the ROSTER_CHANGE of one swept into another
state, and then, if that is ABSENT, the ABSENT notice with the POSTING_DONE reports it causes (R91, R92, R99, R118). -/
def Sys2Proof.Machine.State.sweepTells (beat : Nat) (s u : State) : State :=
  stations.foldl (fun u p => match s.peer? p with
    | none => u
    | some x =>
      let new := (x.swept beat s.tb.localTime).state
      let told := queueReports (if new = x.state then [] else [.rosterChange p x.state new .sweep]) u
      if x.state ≠ .absent ∧ new = .absent then absentNotice p told else told) u

/-- A PERIOD_EXPIRY command is taken: outside PREP, with a record, the timer has run B (R6, log 20), and no firing of this
tick was tested against a slew step still to come (log 32). -/
def Sys2Proof.Machine.State.evaluatesNow (s : State) (c : ConfigRecord) : Prop :=
  s.control.config = some c ∧ s.control.station ≠ .prep
  ∧ (s.stepFixed = false ∨ s.tb.localTime.toNat % 1024 ≠ 0 ∨ s.tb.slewTaken = true)
  ∧ ∃ since, s.tb.periodStart = some since ∧ beatPeriod c.beatCode ≤ (s.tb.localTime - since).toNat

/-- The line access unit after a period expiry (R161): in ACTIVE a BEAT is due, renewed, or counted as skipped. -/
def Sys2Proof.Machine.State.accessAtExpiry (s : State) : LineAccess :=
  if s.control.station = .active then match s.access.due with
    | .none => { s.access with due := .pending }
    | .pending | .renewed => { s.access with beatsSkipped := satInc s.access.beatsSkipped }
    | .inFlight => { s.access with due := .renewed }
  else s.access

/-- PERIOD_EXPIRY, B after the start of the present period (R6): the next period is counted from the end of this one;
the evaluation is applied by the state it starts in (R18) and makes its transition (R19 to R21) with W kept (R17);
every peer entry is swept (R92); and in ACTIVE a BEAT is due, renewed, or counted as skipped (R161).  With no jump the
cue table and the channels are kept, and the reports are those of the sweep, each entry's ROSTER_CHANGE before the
POSTING_DONE reports of its ABSENT notice (R91, R92, R99, R122), and a TIMEBASE_CHANGE with C and W when the timebase state
has changed (R22), after the sweep's or before them as the command's order has it.  The expiry is one event (R6).  The orders
within it are the command's operand (log 4): with the BEAT first, the frame of this tick, if one starts (FRAME_START), is
built while the figures of the evaluation before still stand (R7, log 31).  One that waits for the slew step of its tick
changes nothing (log 32); a period is found ended from its last tick on (log 20). -/
def Obligations.PeriodExpiryEvaluatesAndSweeps : Prop :=
  (∀ (s v : State) (c : ConfigRecord) (order : ExpiryOrder) (e : Evaluation), s.evaluatesNow c →
    e = (if order.sweepFirst then (sweep s).evaluation else s.evaluation) →
    let begun : State := { s with
      tb := { s.tb with periodStart := s.tb.periodStart.map fun since => since + BitVec.ofNat 48 (beatPeriod c.beatCode) }
      access := s.accessAtExpiry }
    (order.beatFirst = true → exec .frameStart begun = .next v) → (order.beatFirst = false → v = begun) →
    let next := Timebase.transition c e s.tb
    let swept := fun x : Peer => x.swept (beatPeriod c.beatCode) s.tb.localTime
    let sweeps := s.sweepTells (beatPeriod c.beatCode)
    let change := queueReports (if s.tb.tbState = next.tbState then []
      else [.timebaseChange s.tb.tbState next.tbState e.correction e.spread])
    ∃ t, exec (.periodExpiry order) s = .next t
      ∧ t.tb.periodStart = v.tb.periodStart ∧ t.tb.localTime = s.tb.localTime ∧ t.tb.samples = s.tb.samples
      ∧ t.tb.departure = v.tb.departure ∧ t.tb.arrival = v.tb.arrival
      ∧ (jumpsFrom c s.tb.tbState e.correction →
          t.tb.offset = s.tb.offset + BitVec.ofInt 48 e.correction ∧ t.tb.correction = 0)
      ∧ (¬ jumpsFrom c s.tb.tbState e.correction → t.tb.offset = s.tb.offset
          ∧ t.tb.correction = (if s.tb.tbState = .solo ∨ s.tb.tbState = .gathering then e.correction
              else max (-(c.jump.toNat : Int)) (min (c.jump.toNat : Int) e.correction))
          ∧ t.cues = s.cues ∧ t.chans = s.chans ∧ t.stepFixed = s.stepFixed)
      ∧ t.tb.spread = e.spread ∧ t.tb.tbState = next.tbState ∧ t.tb.agreements = next.agreements
      ∧ t.tb.disagreements = next.disagreements ∧ t.tb.holdovers = next.holdovers
      ∧ (∀ p x, s.peer? p = some x → t.peer? p = some (swept x)) ∧ t.roster.twinCount = s.roster.twinCount
      ∧ t.post = (sweeps v).post ∧ t.access = (sweeps v).access
      ∧ (¬ jumpsFrom c s.tb.tbState e.correction →
          t.port = (if order.sweepFirst then change (sweeps v) else sweeps (change v)).port)
      ∧ t.marks = s.marks ∧ t.frames = v.frames ∧ t.sig = v.sig ∧ t.control = s.control
      ∧ t.pending = s.pending ∧ t.world = s.world ∧ t.freeCount = s.freeCount)
  ∧ ∀ (s : State) (order : ExpiryOrder), s.stepFixed = true → s.tb.localTime.toNat % 1024 = 0 →
    s.tb.slewTaken = false → exec (.periodExpiry order) s = .next s

/-- The transition step (R19, R20, R21), row by row, with |C| and W of the evaluation, and the limits L and H. -/
def Obligations.TransitionsFollowTheTables : Prop :=
  ∀ (c : ConfigRecord) (e : Evaluation) (t : Timebase),
    let size := e.correction.natAbs
    let lock := c.lock.toNat
    let u := Timebase.transition c e t
    (t.tbState = .solo →
      (e.peers = true → u = { t with tbState := .gathering, agreements := 0 }) ∧ (e.peers = false → u = t))
    ∧ (t.tbState = .gathering →
      (e.peers = false → u = { t with tbState := .solo, agreements := 0 })
      ∧ (e.peers = true → e.spread.toNat ≤ lock → size ≤ lock → t.agreements < 2 →
          u = { t with agreements := t.agreements + 1 })
      ∧ (e.peers = true → e.spread.toNat ≤ lock → size ≤ lock → t.agreements = 2 →
          u = { t with tbState := .locked, agreements := 0, disagreements := 0, holdovers := 0 })
      ∧ (e.peers = true → lock < e.spread.toNat ∨ lock < size → u = { t with agreements := 0 }))
    ∧ (t.tbState = .locked →
      (e.peers = false → u = { t with tbState := .holdover, holdovers := 0, disagreements := 0 })
      ∧ (e.peers = true → 4 * lock < size → t.disagreements < 2 → u = { t with disagreements := t.disagreements + 1 })
      ∧ (e.peers = true → 4 * lock < size → t.disagreements = 2 →
          u = { t with tbState := .gathering, agreements := 0, disagreements := 0 })
      ∧ (e.peers = true → size ≤ 4 * lock → u = { t with disagreements := 0 }))
    ∧ (t.tbState = .holdover →
      (e.peers = true → size ≤ lock →
        u = { t with tbState := .locked, holdovers := 0, agreements := 0, disagreements := 0 })
      ∧ (e.peers = false ∨ lock < size → t.holdovers + 1 < c.holdoverLimit.toNat →
        u = { t with holdovers := t.holdovers + 1 })
      ∧ (e.peers = false ∨ lock < size → c.holdoverLimit.toNat ≤ t.holdovers + 1 →
        u = { t with tbState := .solo, holdovers := 0, agreements := 0, disagreements := 0 }))

/-- The pool by the start state (R15): a SOLO or GATHERING station that hears a LOCKED or HOLDOVER peer takes those
samples alone; one that hears none takes the own zero and every usable sample; a LOCKED or HOLDOVER station takes the
own zero and the samples of LOCKED or HOLDOVER peers.  It is never empty, and it says whether it holds peer samples. -/
def Obligations.PoolByStartState : Prop :=
  ∀ (start : TbState) (usable : List (Int × TbState)),
    let settled := (usable.filter fun x => x.2 = .locked ∨ x.2 = .holdover).map Prod.fst
    let pool := poolOf start usable
    (start = .solo ∨ start = .gathering → settled ≠ [] → pool = { entries := settled, peers := true })
    ∧ (start = .solo ∨ start = .gathering → settled = [] →
        pool = { entries := 0 :: usable.map Prod.fst, peers := !usable.isEmpty })
    ∧ (start = .locked ∨ start = .holdover → pool = { entries := 0 :: settled, peers := !settled.isEmpty })
    ∧ pool.entries ≠ []

/-- The trim (R16): ⌊(n − 1)/3⌋ entries are dropped at each end, equal values as separate entries, and the retained are
the n − 2⌊(n − 1)/3⌋ between them. -/
def Obligations.TrimDropsAThirdAtEachEnd : Prop :=
  ∀ entries : List Int, entries ≠ [] →
    (trimmed entries).length = entries.length - 2 * ((entries.length - 1) / 3)
    ∧ (trimmed entries).Pairwise (· ≤ ·)
    ∧ ∃ low high : List Int, low.length = (entries.length - 1) / 3 ∧ high.length = (entries.length - 1) / 3
      ∧ (low ++ trimmed entries ++ high).Perm entries
      ∧ (∀ x ∈ low, ∀ y ∈ trimmed entries, x ≤ y) ∧ (∀ x ∈ trimmed entries, ∀ y ∈ high, x ≤ y)

/-- The correction and the spread of an evaluation (R12, R13, R17): the samples used are those taken at most 2B ago whose
sender the roster shows PRESENT, each corrected by the change of the offset since; and with the smallest and the largest
retained entry of the pool, C is half their sum, rounded toward zero, and W their difference, kept up to 65,535. -/
def Obligations.CorrectionIsTheMidpoint : Prop :=
  ∀ s : State,
    let retained := trimmed (poolOf s.tb.tbState (stations.filterMap s.usableSample)).entries
    (∀ (p : StationNo) (v : Int) (reported : TbState),
      s.usableSample p = some (v, reported) ↔ ∃ x e, s.tb.samples[p.toNat] = some x ∧ s.peer? p = some e
        ∧ e.state = .present ∧ (s.tb.localTime - x.localTime).toNat ≤ 2 * s.beat
        ∧ v = x.value.toInt - (s.tb.offset - x.offset).toInt ∧ reported = x.reported)
    ∧ ∃ lo ∈ retained, ∃ hi ∈ retained, (∀ x ∈ retained, lo ≤ x ∧ x ≤ hi)
      ∧ s.evaluation.correction = (lo + hi).tdiv 2 ∧ (s.evaluation.spread.toNat : Int) = min 65535 (hi - lo)

/-- Each sample of a PRESENT peer was taken at the peer's last matching BEAT, and only the own entry is SELF. -/
def Sys2Proof.Machine.SamplesFollowBeats (s : State) : Prop :=
  (∀ p, s.entry p = .self ↔ p = s.sig.own)
    ∧ ∀ p x e, s.tb.samples[(p : StationNo).toNat] = some x → s.peer? p = some e → e.state = .present →
      e.lastBeat = some x.localTime

/-- The evaluation of a period expiry comes out the same whether it is taken before or after the sweep (R7), in the
states in which each sample of a PRESENT peer was taken at the peer's last matching BEAT; and every step keeps that. -/
def Obligations.EvaluationSameInEitherOrder : Prop :=
  (∀ s : State, SamplesFollowBeats s → (sweep s).evaluation = s.evaluation)
    ∧ ∀ s t : State, SamplesFollowBeats s → step s = .next t → SamplesFollowBeats t

/-- A forward jump at a period expiry (R45): every held entry at most C ahead of the shared time before it fires in one
event and leaves the table as FIRED (its key stands in the recent-key list when at most 32 leave), and no other entry
leaves.  A flagged one queues CUE_FIRED with the shared time after the jump, and the late flag unless its fire time is that
time; this is stated where the sweep changes no entry and there is room.  What a slew step of the tick stepped over is
settled before the jump (log 18); what the entries do at the channels is JumpsAtTheChannels.  When the expiry is taken
rests on log 20 and log 32, and its orders are the command's operand (log 4). -/
def Obligations.ForwardJumpFiresWhatItReaches : Prop :=
  ∀ (s : State) (c : ConfigRecord) (order : ExpiryOrder) (e : Evaluation), Law1 s → s.evaluatesNow c →
    e = (if order.sweepFirst then (sweep s).evaluation else s.evaluation) →
    jumpsFrom c s.tb.tbState e.correction → 0 < e.correction → s.tb.stepped = none ∨ s.slewDue = false →
    let stays := fun h : HeldEntry =>
      decide (e.correction < (ahead h.fire s.shared : Int) ∧ s.tb.stepped ≠ some h.fire)
    let gone := s.cues.held.filter fun h => !stays h
    ∃ t, exec (.periodExpiry order) s = .next t
      ∧ t.cues.held = s.cues.held.filter stays
      ∧ t.cues.installCount = s.cues.installCount
      ∧ (gone.length ≤ 32 → ∀ h ∈ gone, t.cues.leftBy h.key = some .fired)
      ∧ (s.tb.stepped = none → (∀ p x, s.peer? p = some x → (x.swept s.beat s.tb.localTime).state = x.state) →
          s.port.queue.length + s.post.list.length + 9 + 3 * gone.length ≤ 48 →
          ∀ h ∈ gone, h.report = true → .cueFired {
            key := h.key
            channel := h.channel
            path := h.path
            installNo := some h.installNo
            fire := some h.fire
            time := s.shared + BitVec.ofInt 48 e.correction
            late := decide (h.fire ≠ s.shared + BitVec.ofInt 48 e.correction)
            tbState := (Timebase.transition c e s.tb).tbState } ∈ t.port.queue.map Report.body)

/-- The end of LISTEN, 3B after it began (R196, R152): ACTIVE, with a reference that is not GOOD when no frame end was
handed over since, and STATION_STATE with cause LISTEN_END.  From that tick on, by log 20. -/
def Obligations.ListenEnds : Prop :=
  ∀ (s : State) (c : ConfigRecord) (since : Time), s.control.station = .listen → s.control.config = some c →
    s.control.listenStart = some since → 3 * beatPeriod c.beatCode ≤ (s.tb.localTime - since).toNat →
    exec .listenEnd s = .next (queueReport (.stationState .listen .active .listenEnd)
      { s with
        control := { s.control with station := .active, listenStart := none, cause := some .listenEnd }
        access :=
          if s.access.endSeen then s.access
          else if s.access.condition = .held then
            { s.access with reference := some { endTime := s.tb.localTime, sender := none, good := false } }
          else { s.access with
            reference := some { endTime := s.tb.localTime, sender := none, good := false }
            condition := .clear
            cutEnd := none } })

/-! ## Cues -/

/-- The four words of R28, by the ahead distance (F − N) modulo 2^48: exactly one holds of any two times. -/
def Obligations.AheadDistanceWords : Prop :=
  ∀ f n : Time,
    ahead f n = (f.toNat + 2 ^ 48 - n.toNat) % 2 ^ 48
    ∧ (isDue f n = true ↔ ahead f n = 0)
    ∧ (isAhead f n = true ↔ 1 ≤ ahead f n ∧ ahead f n ≤ 2 ^ 36)
    ∧ (isFar f n = true ↔ 2 ^ 36 < ahead f n ∧ ahead f n < 2 ^ 47)
    ∧ (isPassed f n = true ↔ 2 ^ 47 ≤ ahead f n ∧ ahead f n ≤ 2 ^ 48 - 1)
    ∧ ((isDue f n).toNat + (isAhead f n).toNat + (isFar f n).toNat + (isPassed f n).toNat = 1)

/-- The verdict of a record (R33): the first condition of the nine that applies.  It is MALFORMED (R34) with a width of 0
or above 1,048,575, a period below 2, a count below 2, a width not below the period, or a field its action needs missing;
the fields its action does not use are not looked at.  The shared time of a slew tick is the one that stands (log 38). -/
def Obligations.InstallVerdictInOrder : Prop :=
  (∀ r : CueSpec, r.heldAction = none ↔
    (r.action = .pulse ∧ ∀ w, r.width = some w → w.toNat = 0 ∨ 1048575 < w.toNat)
    ∨ (r.action = .train ∧ ∀ w p n, r.width = some w → r.period = some p → r.count = some n →
        w.toNat = 0 ∨ 1048575 < w.toNat ∨ p.toNat < 2 ∨ n.toNat < 2 ∨ p.toNat ≤ w.toNat))
  ∧ ∀ (s : State) (key : CueKey) (r : CueSpec),
    let channelOk := ∃ o, s.chan r.channel = .output o
    let held := ∃ h ∈ s.cues.held, h.key = key
    let late := fun w : Time → Time → Bool => ∃ f, r.fire = some f ∧ w f s.shared = true
    let v := s.installVerdict key r
    (r.heldAction = none → v = .malformed)
    ∧ (r.heldAction ≠ none → ¬ channelOk → v = .noChannel)
    ∧ (r.heldAction ≠ none → channelOk → held → v = .duplicate)
    ∧ (r.heldAction ≠ none → channelOk → ¬ held → s.cues.leftBy key = some .fired → v = .done)
    ∧ (r.heldAction ≠ none → channelOk → ¬ held → s.cues.leftBy key = some .withdrawn → v = .withdrawn)
    ∧ (r.heldAction ≠ none → channelOk → ¬ held → s.cues.leftBy key = none →
        (late isPassed → v = .stale) ∧ (late isFar → v = .far)
        ∧ (late isAhead → 64 ≤ s.cues.held.length → v = .full)
        ∧ (late isAhead → s.cues.held.length < 64 → v = .held)
        ∧ (late isDue → v = .held) ∧ (r.fire = none → v = .held))

/-- A channel whose run has ended or been cut: the base level, IDLE, with no next edge, origin or running key (R55, R57). -/
def Sys2Proof.Machine.OutputState.stopped (o : OutputState) : OutputState :=
  { o with level := o.base, run := .idle, nextTime := none, nextEdge := none, origin := none, key := none }

/-- A run of n pulses as it stands when its firing is over (R57, R58, R61): its first END, one width after its origin, is
ahead of the shared time the tick ends with, and the run goes on; or it is due, and is taken; or it is passed, and the run
has ended. -/
def Sys2Proof.Machine.OutputState.started (o : OutputState) (kind : RunKind) (width period : BitVec 24) (n : Nat)
    (key : CueKey) (report : Bool) (origin tickEnd : Time) : OutputState :=
  let first := origin + BitVec.ofNat 48 width.toNat
  let run : OutputState := {
    level := !o.level
    base := o.level
    run := kind
    nextTime := some first
    nextEdge := some .finish
    left := n
    completed := 0
    origin := some origin
    width := width
    period := period
    key := some key
    report := report }
  let counted : OutputState := { run with completed := 1, left := n - 1 }
  if first = tickEnd then
    if n ≤ 1 then counted.stopped
    else { counted with
      level := o.level
      nextTime := some (origin + BitVec.ofNat 48 period.toNat)
      nextEdge := some .start }
  else if 2 ^ 47 ≤ ahead first tickEnd then counted.stopped
  else run

/-- A channel after a fired action: a run in progress is first cut back to its base level (R55), and the action then
applied (R56, R57, R58), a run counted from its origin. -/
def Sys2Proof.Machine.OutputState.acted (o : OutputState) (action : HeldAction) (key : CueKey) (report : Bool)
    (origin tickEnd : Time) : OutputState :=
  let ready := if o.run = .idle then o else o.stopped
  match action with
  | .raise => { ready with level := true }
  | .lower => { ready with level := false }
  | .flip => { ready with level := !ready.level }
  | .pulse width => ready.started .pulse width 0 1 key report origin tickEnd
  | .train width period n => ready.started .train width period n.toNat key report origin tickEnd

/-- The reports of one firing at a channel, in their order (R59), each with the flag of its cue: the CUE_CUT of the run it
overtook (R55), the CUE_FIRED of the cue (R43), and the CUE_CUT with reason JUMP of a train passed at once (R61). -/
def Sys2Proof.Machine.OutputState.firingReports (o : OutputState) (action : HeldAction) (report : Bool)
    (fired : FiredReport) (origin tickEnd : Time) : List ReportBody :=
  (if o.run ≠ .idle ∧ o.report then [.cueCut {
      key := o.key.getD { origin := 0, serial := 0 }
      channel := fired.channel
      completed := o.completed
      count := o.completed + o.left
      cutting := some fired.key
      time := fired.time }] else [])
    ++ (if report then [.cueFired fired] else [])
    ++ match action with
      | .train width _ n =>
        if report ∧ 2 ≤ n.toNat ∧ 2 ^ 47 ≤ ahead (origin + BitVec.ofNat 48 width.toNat) tickEnd then [.cueCut {
          key := fired.key
          channel := fired.channel
          completed := 1
          count := n.toNat
          cutting := none
          time := fired.time }] else []
      | .raise | .lower | .flip | .pulse _ => []

/-- A firing whose first-edge test turns on a slew step still to come: its run's first END stands one tick ahead (R61). -/
def Sys2Proof.Machine.State.turnsOnTheStep (s : State) (action : HeldAction) (origin : Time) : Bool :=
  match action with
  | .pulse width | .train width _ _ => decide (s.tb.localTime.toNat % 1024 = 0 ∧ s.tb.slewTaken = false
      ∧ origin + BitVec.ofNat 48 width.toNat = s.shared + 1)
  | .raise | .lower | .flip => false

/-- One cue fires at its OUTPUT channel (R43): it leaves the table as FIRED, its channel acts, and the reports of the
firing are queued; nothing else changes, but that a slew step the test of its first edge turned on is fixed (log 32). -/
def Sys2Proof.Machine.State.fires (s : State) (o : OutputState) (action : HeldAction) (report : Bool)
    (fired : FiredReport) (origin tickEnd : Time) : State :=
  queueReports (o.firingReports action report fired origin tickEnd) { s with
    cues := s.cues.leave fired.key .fired
    chans := s.chans.set fired.channel.toNat (.output (o.acted action fired.key report origin tickEnd))
    stepFixed := s.stepFixed || s.turnsOnTheStep action origin }

/-- One held entry fires at a shared time (R43, R47): at its OUTPUT channel, its run counted from its fire time; at a channel
that is not OUTPUT, which no run reaches, with its report alone (log 23). -/
def Sys2Proof.Machine.State.firesEntry (s : State) (time : Time) (late : Bool) (tbState : TbState) (h : HeldEntry) :
    State :=
  let fired : FiredReport := {
    key := h.key
    channel := h.channel
    path := h.path
    installNo := some h.installNo
    fire := some h.fire
    time := time
    late := late
    tbState := tbState }
  match s.chan h.channel with
  | .output o => s.fires o h.action h.report fired h.fire time
  | .off | .input _ => queueReports (if h.report then [.cueFired fired] else [])
      { s with cues := s.cues.leave h.key .fired }

/-- HEAD_DUE (R42, R44): every held entry whose fire time is the present shared time, or was stepped over by a forward
slew step of this tick, fires and leaves the table as one event; the others keep their places, and a fired key stands
in the recent-key list as FIRED (when at most 32 fire).  They fire one after another in table order, each at its channel as
the one before left it (R62), with CUE_FIRED and no late flag.  On a slew tick the watch waits for the step (log 18); the
rest of what a firing leaves is said at FiringActsOnItsChannel. -/
def Obligations.HeadDueFiresEveryDueEntry : Prop :=
  ∀ s : State, Law1 s → s.control.station ≠ .prep → s.slewDue = false →
    (∃ h ∈ s.cues.held, h.fire = s.shared ∨ s.tb.stepped = some h.fire) →
    ∃ t, exec .headDue s = .next t
      ∧ t = (s.cues.held.filter fun h => h.fire == s.shared || s.tb.stepped == some h.fire).foldl
          (fun u h => u.firesEntry s.shared false s.tb.tbState h) s
      ∧ t.cues.held = s.cues.held.filter (fun h => !(h.fire == s.shared || s.tb.stepped == some h.fire))
      ∧ t.cues.installCount = s.cues.installCount
      ∧ ((s.cues.held.filter fun h => h.fire == s.shared || s.tb.stepped == some h.fire).length ≤ 32 →
          ∀ h ∈ s.cues.held, h.fire = s.shared ∨ s.tb.stepped = some h.fire → t.cues.leftBy h.key = some .fired)
      ∧ t.tb = s.tb ∧ t.marks = s.marks ∧ t.roster = s.roster ∧ t.post = s.post ∧ t.frames = s.frames
      ∧ t.access = s.access ∧ t.sig = s.sig ∧ t.control = s.control ∧ t.pending = s.pending ∧ t.world = s.world

/-- One held entry at its fire time, or on the tick whose forward slew step stepped over it, fires at its OUTPUT channel
(R42, R43, R54 to R59, R61): a run is counted from the fire time and its first END compared with the shared time of the
tick, CUE_FIRED carries that time and no late flag.  That a channel left IDLE keeps its pulse counts, width and period is
log 21; the slew tick is log 18 and log 32; the key 0/0 of a run without a key, which no run reaches, is log 23. -/
def Obligations.FiringActsOnItsChannel : Prop :=
  ∀ (s : State) (h : HeldEntry) (rest : List HeldEntry) (o : OutputState),
    s.control.station ≠ .prep → s.slewDue = false → s.cues.held = h :: rest →
    h.fire = s.shared ∨ s.tb.stepped = some h.fire →
    (∀ g ∈ rest, g.fire ≠ s.shared ∧ s.tb.stepped ≠ some g.fire) → s.chan h.channel = .output o →
    exec .headDue s = .next (s.fires o h.action h.report {
      key := h.key
      channel := h.channel
      path := h.path
      installNo := some h.installNo
      fire := some h.fire
      time := s.shared
      late := false
      tbState := s.tb.tbState } h.fire s.shared)

/-- A channel after the notice of a forward jump by C from a shared time (R63): a run whose next edge lies less than C
ahead ends, its pulse in progress counted completed; any other goes on. -/
def Sys2Proof.Machine.OutputState.jumped (before : Time) (correction : Int) (o : OutputState) : OutputState :=
  match o.nextTime with
  | none => o
  | some e =>
    if o.run ≠ .idle ∧ (ahead e before : Int) < correction then
      (if o.nextEdge = some .finish then { o with completed := o.completed + 1, left := o.left - 1 } else o).stopped
    else o

/-- A channel takes the notice of a forward jump by C (R63, R66): a run it ends with pulses still to come queues CUE_CUT with
reason JUMP, if its report flag is set, with the shared time after the jump. -/
def Sys2Proof.Machine.State.noticed (before after : Time) (correction : Int) (s : State) (i : ChannelNo) : State :=
  match s.chan i with
  | .output o =>
    let ended := o.jumped before correction
    let cut := decide (o.run ≠ .idle ∧ o.report ∧ 0 < ended.left)
      && o.nextTime.any fun edge => decide ((ahead edge before : Int) < correction)
    queueReports (if cut then [.cueCut {
        key := o.key.getD { origin := 0, serial := 0 }
        channel := i
        completed := ended.completed
        count := ended.completed + ended.left
        cutting := none
        time := after }] else [])
      { s with chans := s.chans.set i.toNat (.output ended) }
  | .off | .input _ => s

/-- Jumps at the OUTPUT channels.  Forward (R61, R63, R64): each takes its notice and the cues the jump fires on it, in
table order and in the order the command's operand gives for that channel (log 4); a run with pulses still to come that the
notice ends queues CUE_CUT with reason JUMP and the shared time after the jump.  All reports of the jump are stated in their
order, with the TIMEBASE_CHANGE before or after them (R22): the notices' CUE_CUT in ascending order of channel (log 16), and
each firing's as at State.firesEntry, its CUE_CUT OVERTAKEN of a run it cuts (R55, R64), its CUE_FIRED, and the CUE_CUT JUMP
of a late train passed at its application (R61); and before or after them all the sweep's, as at State.sweepTells.
Backward (R46, R65): no entry leaves, no run ends, no edge moves.  It is stated where no slew step of the tick stepped over a
shared time (log 18); what stands in a channel after its run is log 21, and the key 0/0 of a run without a key, which no run
reaches, is log 23.  When the expiry is taken rests on log 20 and log 32. -/
def Obligations.JumpsAtTheChannels : Prop :=
  ∀ (s : State) (c : ConfigRecord) (order : ExpiryOrder) (e : Evaluation), s.evaluatesNow c →
    e = (if order.sweepFirst then (sweep s).evaluation else s.evaluation) →
    jumpsFrom c s.tb.tbState e.correction → s.tb.stepped = none →
    let after := s.shared + BitVec.ofInt 48 e.correction
    let gone := s.cues.held.filter fun h => decide ((ahead h.fire s.shared : Int) ≤ e.correction)
    let next := (Timebase.transition c e s.tb).tbState
    let sweeps := s.sweepTells (beatPeriod c.beatCode)
    let change := queueReports (if s.tb.tbState = next then []
      else [.timebaseChange s.tb.tbState next e.correction e.spread])
    let notices := fun first : Bool =>
      (channelNumbers.filter fun i => order.noticeFirst.getLsbD i.toNat = first).foldl
        (State.noticed s.shared after e.correction)
    let firings := gone.foldl fun u h => u.firesEntry after (decide (h.fire ≠ after)) next h
    let jump := fun u => notices false (firings (notices true u))
    let announced := fun u => if order.changeFirst then jump (change u) else change (jump u)
    let done := if order.sweepFirst then announced (sweeps s) else sweeps (announced s)
    ∃ t, exec (.periodExpiry order) s = .next t
      ∧ (0 < e.correction → t.cues = done.cues ∧ t.chans = done.chans ∧ t.port = done.port)
      ∧ (0 < e.correction → ∀ i o, s.chan i = .output o →
          let here := gone.filter fun h => h.channel = i
          let fire := fun o : OutputState =>
            here.foldl (fun o h => o.acted h.action h.key h.report h.fire after) o
          let notice := OutputState.jumped s.shared e.correction
          t.chan i = .output (if order.noticeFirst.getLsbD i.toNat then fire (notice o) else notice (fire o))
          ∧ ((∀ p x, s.peer? p = some x → (x.swept s.beat s.tb.localTime).state = x.state) →
            s.port.queue.length + s.post.list.length + 9 + 3 * gone.length ≤ 48 →
            order.noticeFirst.getLsbD i.toNat = true ∨ here = [] →
            ∀ edge, o.run ≠ .idle → o.nextTime = some edge → (ahead edge s.shared : Int) < e.correction →
            0 < (notice o).left → o.report = true → .cueCut {
              key := o.key.getD { origin := 0, serial := 0 }
              channel := i
              completed := (notice o).completed
              count := (notice o).completed + (notice o).left
              cutting := none
              time := after } ∈ t.port.queue.map Report.body))
      ∧ (e.correction < 0 → t.cues = s.cues ∧ t.chans = s.chans)

/-- A record's or serial's receipt (R37, R124): it joins the receipt list, or is dropped and counted when 16 are held. -/
def Sys2Proof.Machine.State.receipted (key : CueKey) (v : Verdict) (s : State) : State :=
  if s.access.receipts.length < 16 then
    { s with access := { s.access with
      receipts := s.access.receipts ++ [{ key := key, verdict := v, time := s.tb.localTime }] } }
  else { s with post := { s.post with receiptsDropped := satInc s.post.receiptsDropped } }

/-- One record by either path (R35, R36): one that is not HELD changes nothing; a HELD one with its fire time ahead is
placed after every entry not farther ahead, with the next install number; a HELD one that is due, or has no fire time, fires
at install, its run counted from the fire time or else from the shared time of the firing (R54), its first END compared with
the shared time the tick ends with (R61, log 32).  A record from the line is answered with a receipt of its verdict (R37).
One serial of a WITHDRAW frame (R40, R41): a held cue leaves as WITHDRAWN, the other entries kept, and the receipt says
WITHDRAWN, TOO_LATE or UNKNOWN.  An entry stepped over on this tick stands at distance 0 (log 18); a channel left IDLE keeps
its pulse counts, width and period (log 21), and a run without a key, which no run reaches, gives the key 0/0 (log 23). -/
def Obligations.EachRecordIsSettledByItsVerdict : Prop :=
  (∀ (s : State) (path : InstallPath) (origin : StationNo) (r : CueRecord),
    let key : CueKey := { origin := origin, serial := r.serial }
    let v := s.installVerdict key r.spec
    let dist := fun time : Time => if s.tb.stepped = some time then 0 else ahead time s.shared
    (v ≠ .held → settleRecord path origin r s = s)
    ∧ (∀ action fire, v = .held → r.spec.heldAction = some action → r.spec.fire = some fire → fire ≠ s.shared →
      ∃ front back, s.cues.held = front ++ back
        ∧ settleRecord path origin r s = { s with cues := { s.cues with
            held := front ++ [{
              key := key
              channel := r.spec.channel
              action := action
              report := r.spec.report
              fire := fire
              path := path
              installNo := s.cues.installCount }] ++ back
            installCount := s.cues.installCount + 1 } }
        ∧ (∀ h ∈ front, dist h.fire ≤ dist fire) ∧ (∀ h, back.head? = some h → dist fire < dist h.fire))
    ∧ (∀ action o, v = .held → r.spec.heldAction = some action → s.chan r.spec.channel = .output o →
      (∀ fire, r.spec.fire = some fire → fire = s.shared) →
      settleRecord path origin r s = s.fires o action r.spec.report {
          key := key
          channel := r.spec.channel
          path := path
          installNo := none
          fire := r.spec.fire
          time := s.shared
          late := false
          tbState := s.tb.tbState } s.shared
        (if s.slewDue = true ∧ 0 < s.tb.correction then s.shared + 1 else s.shared))
    ∧ takeLineRecord origin s r = (settleRecord .line origin r s).receipted key v)
  ∧ (∀ (s : State) (origin : StationNo) (serial : Byte),
    let key : CueKey := { origin := origin, serial := serial }
    (s.cues.holds key = true →
      takeLineSerial origin s serial = { s with cues := s.cues.leave key .withdrawn }.receipted key .withdrawn)
    ∧ (s.cues.holds key = false → takeLineSerial origin s serial = s.receipted key (match s.cues.leftBy key with
      | some .fired => .tooLate
      | some .withdrawn => .withdrawn
      | none => .unknown)))

/-- A key that leaves the table joins the recent-key list at the young end, its old entry removed or the oldest of 32
dropped, and is held no more (R31). -/
def Obligations.LeavingJoinsTheRecentKeys : Prop :=
  ∀ (t : CueTable) (key : CueKey) (how : Departure), t.recent.length ≤ 32 → (t.recent.map RecentKey.key).Nodup →
    let u := t.leave key how
    u.recent.getLast? = some { key := key, how := how } ∧ u.recent.length ≤ 32
      ∧ (u.recent.map RecentKey.key).Nodup ∧ u.leftBy key = some how ∧ u.holds key = false
      ∧ u.held = t.held.filter (fun h => h.key ≠ key) ∧ u.installCount = t.installCount
      ∧ (t.leftBy key ≠ none → u.recent = t.recent.filter (fun r => r.key ≠ key) ++ [{ key := key, how := how }])
      ∧ (t.leftBy key = none → t.recent.length < 32 → u.recent = t.recent ++ [{ key := key, how := how }])
      ∧ (t.leftBy key = none → t.recent.length = 32 → u.recent = t.recent.tail ++ [{ key := key, how := how }])

/-! ## Pins -/

/-- A channel after its next edge, the run counted from its origin (R57, R58): an END with pulses left returns to the base
level and looks to the START of the next pulse; the last END ends the run; a START goes to the pulse level and looks to its
END. -/
def Sys2Proof.Machine.OutputState.afterEdge (origin : Time) (o : OutputState) : OutputState :=
  match o.nextEdge with
  | none => o
  | some .finish =>
    let counted : OutputState := { o with level := o.base, completed := o.completed + 1, left := o.left - 1 }
    if o.left ≤ 1 then counted.stopped
    else { counted with
      nextTime := some (origin + BitVec.ofNat 48 ((o.completed + 1) * o.period.toNat))
      nextEdge := some .start }
  | some .start => { o with
      level := !o.base
      nextTime := some (origin + BitVec.ofNat 48 (o.completed * o.period.toNat + o.width.toNat))
      nextEdge := some .finish }

/-- The edge watch (R57, R58, R60) takes an edge whose time is the shared time, or was stepped over by a forward slew step
of this tick, and with it the edge that follows when that is reached on the same tick; nothing but the channel changes.
What stands in a channel after its run is log 21; the slew tick is log 18. -/
def Obligations.EdgeWatchTakesTheEdge : Prop :=
  ∀ (s : State) (c : ChannelNo) (o : OutputState) (e origin : Time),
    let reached := fun time : Time => time = s.shared ∨ s.tb.stepped = some time
    let one := o.afterEdge origin
    let ends := fun after : OutputState =>
      exec (.edgeReached c) s = .next { s with chans := s.chans.set c.toNat (.output after) }
    s.control.station ≠ .prep → s.slewDue = false → s.chan c = .output o → o.run ≠ .idle →
    o.nextTime = some e → reached e → o.origin = some origin →
    ((∀ e', one.nextTime = some e' → ¬ reached e') → ends one)
    ∧ (∀ e', one.nextTime = some e' → reached e' → ends (one.afterEdge origin))

/-- A matching edge outside the holdoff window makes a mark (R74, R76, R77, R78): it takes the next sequence number and
the suppressed count, opens a window of the holdoff, is reported if the channel asks, and joins the outgoing list in
ACTIVE with room, or counts as a shared loss.  An edge that makes no mark changes its own channel alone: the level (R71);
and, when it matches inside the window, the suppressed count, up to 255 (R74).  In PREP, or with a sense that does not
match, it is the level alone (R73).  The first level of a channel is taken and is no edge (R71).  The level is the
command's operand, whatever the samples show (log 9). -/
def Obligations.InputEdgesWithAndWithoutAMark : Prop :=
  ∀ (s : State) (c : ChannelNo) (i : InputState) (x : InputSettings) (level : Bool),
    s.chan c = .input i → s.inputSettings c = some x →
    let senses := x.sense = .both ∨ x.sense = .rising ∧ level = true ∨ x.sense = .falling ∧ level = false
    let alone := fun after : InputState => Host.Outcome.next { s with chans := s.chans.set c.toNat (.input after) }
    (i.level = some (!level) → s.control.station ≠ .prep → senses →
      (∀ e, i.windowEnd = some e → ahead e s.shared = 0 ∨ 10 * x.holdoff.toNat < ahead e s.shared) →
      let mark : MarkRecord := {
        seq := s.marks.nextSeq
        channel := c
        fall := !level
        stamp := s.shared
        tbState := s.tb.tbState
        suppressed := i.suppressed }
      let t := queueReports (if x.localReport then [.localMark mark] else []) { s with
        chans := s.chans.set c.toNat (.input { i with
          level := some level
          suppressed := 0
          windowEnd := some (s.shared + BitVec.ofNat 48 (10 * x.holdoff.toNat)) })
        marks := { s.marks with nextSeq := s.marks.nextSeq + 1 } }
      let offered := fun target : Target =>
        if s.control.station = .active ∧ s.marks.outgoing.length < 12 then
          { t with marks := { t.marks with outgoing := s.marks.outgoing ++ [{ mark := mark, target := target }] } }
        else { t with marks := { t.marks with sharedLoss := satInc s.marks.sharedLoss } }
      exec (.inputEdge c level) s = .next (match x.share with
        | .none => t
        | .group g => offered (.group g)
        | .all => offered .all))
    ∧ (i.level = some (!level) → s.control.station = .prep ∨ ¬ senses →
      exec (.inputEdge c level) s = alone { i with level := some level })
    ∧ (i.level = some (!level) → s.control.station ≠ .prep → senses →
      ∀ e, i.windowEnd = some e → 1 ≤ ahead e s.shared → ahead e s.shared ≤ 10 * x.holdoff.toNat →
      exec (.inputEdge c level) s = alone { i with
        level := some level
        suppressed := if i.suppressed = 255 then 255 else i.suppressed + 1 })
    ∧ (i.level = none → exec (.firstInputLevel c level) s = alone { i with level := some level })

/-! ## The receiver and received frames -/

/-- A character that awaits delivery, with the present tick as its end (R180). -/
def Sys2Proof.Machine.State.nowEnded (s : State) (w : WaitingChar) : RxChar where
  value := w.value
  noisy := w.noisy
  framing := w.framing
  startTick := w.startTick
  endTick := s.tb.localTime

/-- The receiver at one sample of LRX, by its state (R177 to R180, R184).  The decision samples of a bit of Q samples are those
at Q/2 − 1, Q/2 and Q/2 + 1 from its beginning, counted from the start edge, or in ECHO from the character's own start.
HUNTING: a high sample followed by a low one is a start edge; a waiting character is delivered before it, or at the end of
its stop bit.  START CHECK and BITS: a bit is the majority of its decision samples, NOISY when they are not all equal; the
stop bit gives FRAMING, and the character waits Q/2 − 2 samples.  ECHO: the read-back at the tenth bit's end. -/
def Sys2Proof.Machine.State.readsSamples (s : State) (place : Nat) (level : Bool) (before : Option Bool) : Prop :=
  let x := s.sig
  let q := 4 * ticksPerBit x.rate
  let since := fun start : Time => 4 * (s.tb.localTime - start).toNat + place
  let early := fun n : Nat => n + 1 = q / 2 ∨ n = q / 2
  let last := fun n : Nat => n = q / 2 + 1
  let gives := fun (y : Signalling) (events : List Instr) => s.receive place level before = (y, events)
  let given := fun w => Instr.characterDelivered (s.nowEnded w)
  let edge := before = some true ∧ level = false
  (x.phase = .hunting →
    (x.waiting = none → (edge → gives x [.startEdge]) ∧ (¬ edge → gives x []))
    ∧ ∀ w, x.waiting = some w → (edge → gives x [given w, .startEdge]) ∧ (¬ edge → w.remaining ≤ 1 → gives x [given w])
      ∧ (¬ edge → 2 ≤ w.remaining → gives { x with waiting := some { w with remaining := w.remaining - 1 } } []))
  ∧ (x.phase = .startCheck → let n := since x.startTick - x.startPlace
    (early n → gives { x with votes := level :: x.votes } [])
    ∧ (last n → ∀ a b, x.votes = [b, a] → gives { x with votes := [level, b, a] }
        [if mostly a b level then .glitch else .startConfirmation (decide ¬ (a = b ∧ b = level))])
    ∧ (¬ early n → ¬ last n → gives x []))
  ∧ (x.phase = .bits → let n := since x.startTick - x.startPlace - x.bits.length * q
    (early n → gives { x with votes := level :: x.votes } [])
    ∧ (last n → ∀ a b, x.votes = [b, a] → let noisy := x.noisy || decide ¬ (a = b ∧ b = level)
        (x.bits.length < 9 → gives { x with votes := [], bits := x.bits ++ [mostly a b level], noisy := noisy } [])
        ∧ (x.bits.length = 9 → ∀ v : Byte, (∀ j < 8, v.getLsbD j = x.bits.getD (j + 1) false) →
          let w : WaitingChar := {
            value := v
            noisy := noisy
            framing := !(mostly a b level)
            startTick := x.startTick
            remaining := q / 2 - 2 }
          gives { x with phase := .hunting, votes := [], bits := [], noisy := false, waiting := some w }
            (if q / 2 - 2 = 0 then [given w] else [])))
    ∧ (¬ early n → ¬ last n → gives x []))
  ∧ (x.phase = .echo → (s.access.flight = none → gives x []) ∧ ∀ f, s.access.flight = some f →
    let char := since f.start - x.echoIndex * (10 * q)
    let n := char - x.bits.length * q
    let ends := fun y : Signalling => gives y (if char + 1 = 10 * q then [.echoCheck (readBackOf y.bits y.noisy)] else [])
    (early n → ends { x with votes := level :: x.votes })
    ∧ (last n → ∀ a b, x.votes = [b, a] → ends { x with
        votes := [], bits := x.bits ++ [mostly a b level], noisy := x.noisy || decide ¬ (a = b ∧ b = level) })
    ∧ (¬ early n → ¬ last n → ends x))

/-- The receiver in START CHECK from the sample just taken, the line reading low, no character awaiting delivery, and the
arrival stamp captured (R177, R9). -/
def Sys2Proof.Machine.State.checksEdge (s : State) : State :=
  { s with
    sig := { s.sig with
      phase := .startCheck
      history := if s.sig.history.head? = some false then s.sig.history else (false :: s.sig.history).take 3
      startTick := s.tb.localTime
      startPlace := s.sig.taken - 1
      votes := []
      bits := []
      noisy := false
      waiting := none }
    tb := { s.tb with arrival := some { shared := s.shared, localTime := s.tb.localTime, offset := s.tb.offset } } }

/-- The receiver takes the samples one by one as State.readsSamples says; what ECHO reads back is the value of the eight data
bits, least significant first, with its flags, or nothing when the start bit is high (R184).  Its events:
a falling edge in HUNTING enters START CHECK, with the line reading low, and captures the arrival stamp (R177, R9), after
the delivery of a character that still awaits it, with this tick as its end (R180); a confirmed start enters BITS and takes
the line from CLEAR to RECEIVING (R178, R153); a glitch is counted, discards the stamp and returns to HUNTING (R178).  That
these three are taken by the receiver's state alone, whatever the samples show, and that a START_EDGE with no low sample
behind it puts one at the head of the history, are the model's own (log 9). -/
def Obligations.ReceiverTakesSamplesAndStartEdges : Prop :=
  (∀ (s : State) (place : Nat) (level : Bool) (before : Option Bool), s.readsSamples place level before)
  ∧ (∀ (data : List Bool) (stop noisy : Bool) (v : Byte), data.length = 8 → (∀ j < 8, v.getLsbD j = data.getD j false) →
      readBackOf (false :: data ++ [stop]) noisy = some { value := v, noisy := noisy, framing := !stop }
      ∧ readBackOf (true :: data ++ [stop]) noisy = none)
  ∧ ∀ s : State,
    (s.sig.phase = .hunting → s.sig.waiting = none → exec .startEdge s = .next s.checksEdge)
    ∧ (s.sig.phase = .hunting → s.access.flight = none → ∀ w, s.sig.waiting = some w →
      ∃ t, exec (.characterDelivered (s.nowEnded w)) s = .next t ∧ exec .startEdge s = .next t.checksEdge)
    ∧ (s.sig.phase = .startCheck → ∀ noisy, exec (.startConfirmation noisy) s = .next { s with
      sig := { s.sig with phase := .bits, votes := [], bits := [false], noisy := noisy }
      access := if s.access.condition = .clear then { s.access with condition := .receiving } else s.access })
    ∧ (s.sig.phase = .startCheck → exec .glitch s = .next { s with
      sig := { s.sig with
        phase := .hunting
        votes := []
        bits := []
        noisy := false
        glitches := if s.sig.glitches = 65535 then 65535 else s.sig.glitches + 1 }
      tb := { s.tb with arrival := none } })

/-- The receiver has handed a character over: it is HUNTING with none awaiting, the stamp has left the timebase with the
character, and a NOISY one is counted (R180, R9, R140). -/
def Sys2Proof.Machine.State.handedOver (s : State) (c : RxChar) : State :=
  { s with
    sig := { s.sig with phase := .hunting, votes := [], bits := [], noisy := false, waiting := none }
    tb := { s.tb with arrival := none }
    frames := { s.frames with noisy := if c.noisy then satInc s.frames.noisy else s.frames.noisy } }

/-- A character delivered outside a frame (R136, R151, R153): a clean 0x9B opens a frame with the arrival stamp, and takes
CUT WAIT to RECEIVING; any other is stray, takes RECEIVING back to CLEAR and moves the end of CUT WAIT on.  Inside a
frame that does not end at it, the character joins the frame.  A frame ends by its characters (R137) at its declared length
of 8 + H4 + 3·H5 when that is at most 96, and otherwise at the 97th character.  That a frame opened in CLEAR leaves the line
CLEAR is log 22; that the character is taken as it comes, in every receiver state, is log 9. -/
def Obligations.CharactersThatEndNoFrame : Prop :=
  (∀ (s : State) (c : RxChar), s.access.flight = none →
    (s.frames.assembly = none → c.value = 0x9B → c.framing = false →
      exec (.characterDelivered c) s = .next
        (let t := s.handedOver c
         { t with
          frames := { t.frames with assembly := some {
            chars := [0x9B]
            broken := false
            stamp := s.tb.arrival
            leadTick := c.startTick
            lastEnd := c.endTick } }
          access := if s.access.condition = .cutWait then
              { s.access with condition := .receiving, cutEnd := none }
            else s.access }))
    ∧ (s.frames.assembly = none → c.value ≠ 0x9B ∨ c.framing = true →
      exec (.characterDelivered c) s = .next
        (let t := s.handedOver c
         { t with
          frames := { t.frames with stray := satInc s.frames.stray }
          access := match s.access.condition with
            | .receiving => { s.access with condition := .clear }
            | .cutWait => { s.access with cutEnd := some c.endTick }
            | _ => s.access }))
    ∧ (∀ a, s.frames.assembly = some a → (a.append c).ends = none →
      exec (.characterDelivered c) s = .next
        (let t := s.handedOver c
         { t with frames := { t.frames with assembly := some { a with
            chars := a.chars ++ [c.value]
            broken := a.broken || c.framing
            lastEnd := c.endTick } } })))
  ∧ (∀ a : Assembly, (a.chars.length < 6 → a.ends = none)
    ∧ ∀ h4 h5, a.chars[4]? = some h4 → a.chars[5]? = some h5 →
      let declared := 8 + h4.toNat + 3 * h5.toNat
      (declared ≤ 96 → a.ends = if declared ≤ a.chars.length then some .lengthReached else none)
      ∧ (96 < declared → a.ends = if 97 ≤ a.chars.length then some .overlong else none))

/-- The reference of a frame end that was not GOOD, and what it does to the line condition (R150, R153). -/
def Sys2Proof.Machine.LineAccess.endedBad (a : LineAccess) (endTime : Time) : LineAccess :=
  { a with
    reference := some { endTime := endTime, sender := none, good := false }
    condition := if a.condition = .held then .held else .clear
    cutEnd := if a.condition = .held then a.cutEnd else none
    endSeen := true }

/-- A body as it lies on the line: the kind of H1, and its characters (R130 to R133). -/
def Sys2Proof.Machine.LineBody.laidOut : LineBody → Nat × List Byte
  | .beat b => (1, byte (b.tbState.code + 128 * b.leaving.toNat) :: b.beatCode :: b.groups
      :: bytesOf 6 b.stamp.toNat ++ bytesOf 2 b.spread.toNat)
  | .cue target records => (2, target.chars ++ records.flatMap fun r => r.serial :: r.spec.chars)
  | .withdraw target serials => (3, target.chars ++ byte serials.length :: serials)
  | .mark target loss marks => (4, target.chars ++ loss :: byte marks.length :: marks.flatMap MarkRecord.chars)

/-- A body that keeps its kind's ranges (R131 to R133, R139). -/
def Sys2Proof.Machine.LineBody.inRange : LineBody → Prop
  | .beat b => b.beatCode.toNat ≤ 5
  | .cue _ records => 1 ≤ records.length ∧ records.length ≤ 4 ∧ ∀ r ∈ records, r.spec.whole
  | .withdraw _ serials => 1 ≤ serials.length ∧ serials.length ≤ 8
  | .mark _ _ marks => 1 ≤ marks.length ∧ marks.length ≤ 6

/-- A frame's header, body and trailer as they lie on the line (R130, R134). -/
def Sys2Proof.Machine.LineFrame.laidOut (f : LineFrame) : List Byte :=
  let body := f.body.laidOut
  [byte body.1, byte f.source.toNat, f.sequence, byte body.2.length, byte f.receipts.length] ++ body.2
    ++ f.receipts.flatMap fun r => [byte r.key.origin.toNat, r.key.serial, byte r.verdict.code]

/-- A frame that ends with a verdict other than GOOD (R137, R138, R140, R141) is counted and dispatched to nobody: BROKEN
with a FRAMING flag or by a gap, then OVERLONG at its 97th character, then MALFORMED by its contents, then BAD_CHECK.
The gap is found from its tick on (log 20).  The contents of a frame of its declared length pass exactly when they are laid
out as R130 to R134 say with every field in its range, and are read as that frame (R139).  The check register begins at all
ones; a bit shifts it left, with 0x1021 combined when the bit shifted out differs from it, each character's most significant
bit first (R135).  The characters are taken as they come (log 9). -/
def Obligations.FramesThatEndBad : Prop :=
  (∀ (lead h1 h2 h3 h4 h5 check1 check2 : Byte) (rest : List Byte) (f : LineFrame),
    rest.length = h4.toNat + 3 * h5.toNat →
    let content := h1 :: h2 :: h3 :: h4 :: h5 :: rest
    (lineFrameOf (lead :: content ++ [check1, check2]) = some f
      ↔ content = f.laidOut ∧ f.body.inRange ∧ f.receipts.length ≤ 8))
  ∧ (∀ (chars : List Byte) (c : Byte), crc [] = 0xFFFF
    ∧ crc (chars ++ [c]) = [7, 6, 5, 4, 3, 2, 1, 0].foldl
        (fun (r : BitVec 16) i => if r.getLsbD 15 = c.getLsbD i then r <<< 1 else (r <<< 1) ^^^ 0x1021) (crc chars))
  ∧ crc [0x31, 0x32, 0x33, 0x34, 0x35, 0x36, 0x37, 0x38, 0x39] = 0x29B1
  ∧ ∀ (s : State) (a : Assembly), s.frames.assembly = some a →
    (∀ c how, s.access.flight = none → (a.append c).ends = some how →
      let t := s.handedOver c
      let ends := fun u : FrameUnit => exec (.characterDelivered c) s = .next { t with
        frames := { u with assembly := none }
        access := s.access.endedBad c.endTick }
      let broken := a.broken || c.framing
      let chars := a.chars ++ [c.value]
      (broken = true → ends { t.frames with broken := satInc s.frames.broken })
      ∧ (broken = false → how = .overlong → ends { t.frames with overlong := satInc s.frames.overlong })
      ∧ (broken = false → how = .lengthReached → lineFrameOf chars = none →
          ends { t.frames with malformed := satInc s.frames.malformed })
      ∧ (broken = false → how = .lengthReached → lineFrameOf chars ≠ none → crc (chars.drop 1) ≠ 0 →
          ends { t.frames with badCheck := satInc s.frames.badCheck }))
    ∧ (s.sig.phase = .hunting → s.sig.waiting = none →
      (s.tb.localTime - (a.lastEnd + BitVec.ofNat 48 (15 * ticksPerBit s.sig.rate))).toNat < 2 ^ 47 →
      exec .gapFound s = .next { s with
        frames := { s.frames with assembly := none, broken := satInc s.frames.broken }
        access := s.access.endedBad a.lastEnd })

/-- A character that completes a GOOD frame f (R137, R138). -/
def Sys2Proof.Machine.State.completes (s : State) (c : RxChar) (f : LineFrame) : Prop :=
  s.access.flight = none ∧ ∃ a, s.frames.assembly = some a ∧ a.broken = false
    ∧ c.framing = false ∧ (a.append c).ends = some .lengthReached ∧ lineFrameOf (a.chars ++ [c.value]) = some f
    ∧ crc ((a.chars ++ [c.value]).drop 1) = 0

/-- A GOOD frame at the end of its last character, before its dispatch: the character is handed over, the frame is counted
and its end handed to line access (R140, R141, R150). -/
def Sys2Proof.Machine.State.frameHeard (s : State) (c : RxChar) (f : LineFrame) : State :=
  let t := s.handedOver c
  { t with
    frames := { t.frames with assembly := none, good := satInc s.frames.good }
    access := { s.access with
      reference := some { endTime := c.endTick, sender := some f.source, good := true }
      condition := if s.access.condition = .held then .held else .clear
      cutEnd := if s.access.condition = .held then s.access.cutEnd else none
      endSeen := true } }

/-- The same with the sequence of a frame from a peer checked at the sender's entry (R96). -/
def Sys2Proof.Machine.State.goodHeard (s : State) (c : RxChar) (f : LineFrame) (e : Peer) : State :=
  { s.frameHeard c f with
    roster := { s.roster with entries := s.roster.entries.set f.source.toNat (.peer { e with
      lastSeq := some f.sequence
      missed := match e.lastSeq with
        | none => e.missed
        | some last => satAdd e.missed ((f.sequence - last).toNat - 1) }) } }

/-- A GOOD BEAT from a peer, outside PREP (R88, R90, R95, R96, R10, R141): the frame is counted GOOD and sets a GOOD
reference; the sequence is checked; a matching one moves the entry by R88's table, writes the sample, and reports an entry
that has become PRESENT (R99); a matching one with the leaving flag makes the entry ABSENT, with its report and the ABSENT
notice (R91); one with another code sets the mismatch flag, reports it if it was clear (R95), and does nothing else.  The
receipts of the trailer are taken last, in their order (R142, R116); nothing else changes.  The stamp is the one held with
the frame; of a frame whose stamp a CLOSE discarded, or whose lead came with no start edge, it is a free value (log 10).  That a leaving BEAT for an entry already
ABSENT keeps the sequence just recorded is log 39. -/
def Obligations.GoodBeatAtTheRoster : Prop :=
  ∀ (s : State) (c : RxChar) (f : LineFrame) (b : BeatBody) (k : ConfigRecord) (e : Peer),
    s.completes c f → f.body = .beat b → s.control.station ≠ .prep → s.control.config = some k →
    f.source ≠ s.sig.own → s.peer? f.source = some e →
    ∃ stamp : ArrivalStamp, (∀ a held, s.frames.assembly = some a → a.stamp = some held → stamp = held) ∧
    let missed := match e.lastSeq with
      | none => e.missed
      | some last => satAdd e.missed ((f.sequence - last).toNat - 1)
    let within := ∃ last, e.lastBeat = some last ∧ (stamp.localTime - last).toNat ≤ 2 * beatPeriod k.beatCode
    let u := s.frameHeard c f
    ∃ t, exec (.characterDelivered c) s = .next (f.receipts.foldl (fun v r => takeReceipt f.source r v) t)
      ∧ t.frames = u.frames ∧ t.access = u.access ∧ t.sig = u.sig
      ∧ t.tb = { u.tb with samples := t.tb.samples } ∧ t.roster.twinCount = s.roster.twinCount
      ∧ (∀ q, q ≠ f.source → t.entry q = s.entry q ∧ t.tb.samples[q.toNat] = s.tb.samples[q.toNat])
      ∧ (b.beatCode = k.beatCode → t.tb.samples[f.source.toNat] = some {
          value := b.stamp + k.lineDelay.setWidth 48 - stamp.shared
          localTime := stamp.localTime
          offset := stamp.offset
          reported := b.tbState })
      ∧ (b.beatCode = k.beatCode → b.leaving = false → ∀ state beats,
          (e.state = .absent → state = .joining ∧ beats = 1) →
          (e.state = .joining → within → state = .present ∧ beats = 2) →
          (e.state = .joining → ¬ within → state = .joining ∧ beats = 1) →
          (e.state = .present ∨ e.state = .silent → state = .present ∧ beats = 2) →
          t.peer? f.source = some {
            state := state
            groups := b.groups
            reported := some b.tbState
            lastBeat := some stamp.localTime
            beats := beats
            lastSeq := some f.sequence
            missed := missed
            mismatch := false }
          ∧ t.post = s.post
          ∧ t.port = (queueReports (if state = .present ∧ e.state ≠ .present then
              [.rosterChange f.source e.state .present .beat] else []) s).port)
      ∧ (b.beatCode = k.beatCode → b.leaving = true → e.state ≠ .absent → t.peer? f.source = some {
            state := .absent
            groups := 0
            reported := none
            lastBeat := none
            beats := 0
            lastSeq := none
            missed := missed
            mismatch := false }
          ∧ (let u := absentNotice f.source (queueReport (.rosterChange f.source e.state .absent .leaving) s)
             t.post = u.post ∧ t.port = u.port))
      ∧ (b.beatCode = k.beatCode → b.leaving = true → e.state = .absent →
          t.peer? f.source = some { e with lastSeq := some f.sequence, missed := missed, mismatch := false }
          ∧ t.post = s.post ∧ t.port = s.port)
      ∧ (b.beatCode ≠ k.beatCode →
          t.peer? f.source = some { e with lastSeq := some f.sequence, missed := missed, mismatch := true }
          ∧ t.tb.samples[f.source.toNat] = s.tb.samples[f.source.toNat] ∧ t.post = s.post
          ∧ t.port = (queueReports (if e.mismatch then [] else [.lineMismatch f.source b.beatCode k.beatCode]) s).port)
      ∧ t.cues = s.cues ∧ t.chans = s.chans ∧ t.marks = s.marks ∧ t.control = s.control ∧ t.pending = s.pending
      ∧ t.world = s.world ∧ t.freeCount = s.freeCount ∧ t.stepFixed = s.stepFixed

/-- A GOOD CUE, WITHDRAW or MARK frame from a peer (R32, R39, R83, R142 to R144), with any number of records, serials or
marks: when its target is this station, a group of its, or ALL, the records or serials are settled one after another, or
each mark queues a PEER_MARK report with the frame's loss count; otherwise the body has no effect.  In PREP no frame's body
has one, and no sequence is checked.  The receipts of the trailer are taken last.  Whether a stamp is held with the frame
makes no difference.  What one record or serial comes to is EachRecordIsSettledByItsVerdict. -/
def Obligations.GoodFramesReachTheirBlocks : Prop :=
  ∀ (s : State) (c : RxChar) (f : LineFrame) (e : Peer),
    s.completes c f → f.source ≠ s.sig.own → s.peer? f.source = some e →
    let u := s.goodHeard c f e
    let ends := fun t : State =>
      exec (.characterDelivered c) s = .next (f.receipts.foldl (fun v r => takeReceipt f.source r v) t)
    let here := fun target : Target => target = .one s.sig.own ∨ target = .all
      ∨ ∃ g k, target = .group g ∧ s.control.config = some k ∧ k.groups.getLsbD g.toNat = true
    (s.control.station = .prep → ends (s.frameHeard c f))
    ∧ (s.control.station ≠ .prep →
      (∀ target records, f.body = .cue target records →
        (here target → ends (records.foldl (takeLineRecord f.source) u)) ∧ (¬ here target → ends u))
      ∧ (∀ target serials, f.body = .withdraw target serials →
        (here target → ends (serials.foldl (takeLineSerial f.source) u)) ∧ (¬ here target → ends u))
      ∧ (∀ target loss marks, f.body = .mark target loss marks →
        (here target → ends (queueReports (marks.map fun m => .peerMark f.source m loss) u))
        ∧ (¬ here target → ends u)))

/-- A twin frame (R97, R197): the twin count rises; in LISTEN, ACTIVE and CLOSING the station becomes MUTED, the postings
are gone, no frame is pending and the outgoing marks are discarded as shared losses; in MUTED only the count changes.
The roster's entries, the timebase, the cue table and the channels are kept.  In PREP the roster takes no frame (R87): it is
heard as any GOOD frame, and nothing else changes.  The frame kind in the report is the H1 code (log 40). -/
def Obligations.TwinFrameMutes : Prop :=
  ∀ (s : State) (c : RxChar) (f : LineFrame), s.completes c f → f.source = s.sig.own → Law4 s →
    (s.control.station = .prep → exec (.characterDelivered c) s = .next (s.frameHeard c f)) ∧
    (s.control.station ≠ .prep → ∃ t, exec (.characterDelivered c) s = .next t
      ∧ t.roster = { s.roster with twinCount := satInc s.roster.twinCount }
      ∧ t.control.station = .muted ∧ t.post.list = [] ∧ t.cues = s.cues ∧ t.chans = s.chans
      ∧ t.tb = { s.tb with arrival := none } ∧ t.access.receipts = s.access.receipts
      ∧ t.access.reference = some { endTime := c.endTick, sender := some s.sig.own, good := true }
      ∧ (s.control.station = .listen → t.control.listenStart = none ∧ t.marks = s.marks)
      ∧ (s.control.station = .active ∨ s.control.station = .closing →
          t.access.leavingPending = false ∧ t.access.due = .none ∧ t.access.receiptsPending = false
          ∧ t.marks.outgoing = []
          ∧ t.marks.sharedLoss = satAdd s.marks.sharedLoss s.marks.outgoing.length)
      ∧ (s.control.station ≠ .muted → t.control.cause = some .twin)
      ∧ (s.control.station = .muted → t.control = s.control ∧ t.port = s.port ∧ t.marks = s.marks)
      ∧ (s.control.station ≠ .muted → s.port.queue.length + s.post.list.length + 2 ≤ 48 →
          t.port.queue.map Report.body = s.port.queue.map Report.body
            ++ [.lineTwin (satInc s.roster.twinCount) f.body.kindCode f.sequence]
            ++ s.post.list.map (fun p => .postingDone (p.doneReport .abandoned))
            ++ [.stationState s.control.station .muted .twin])
      ∧ t.frames = (s.frameHeard c f).frames ∧ t.sig = (s.frameHeard c f).sig ∧ t.pending = s.pending ∧ t.world = s.world)

/-! ## Sending -/

/-- Station s owns slot k from a reference (R155, R156): in the first round, station (last sender + 1 + k) modulo 32, and
nobody for a station whose reference is not GOOD; in later rounds station (k − 32) modulo 32. -/
def Obligations.SlotOwners : Prop :=
  ∀ (ref : FrameEndRef) (k : Nat),
    (∀ l, ref.good = true → ref.sender = some l → k < 32 →
      ∃ p, slotOwner ref k = some p ∧ p.toNat = (l.toNat + 1 + k) % 32)
    ∧ (ref.good = false → k < 32 → slotOwner ref k = none)
    ∧ (32 ≤ k → ∃ p, slotOwner ref k = some p ∧ p.toNat = (k - 32) % 32)

/-- FRAME_START at the beginning of an owned slot (R154, R157, R163): the frame chosen is built and in flight, LDE is high,
the line is SENDING and the receiver in ECHO; a BEAT's departure stamp is captured (R8), and a frame in assembly is
abandoned (R136).  After a start edge of the same tick it does not start (R158), nor in another line condition, while LRX
reads low, with nothing chosen, or where no owned slot begins (R157).  The frame chosen (R160) is in CLOSING the leaving
BEAT and in ACTIVE the first of: the due BEAT, the oldest posting's frame, the MARK frame, the receipts BEAT.  A MARK frame
carries the unbroken run from the head of the outgoing list with its target, at most 6 (R79).  The model's own: the
collision count in the flight (log 12), the whole copy at the start (log 13), a start before the first LRX sample (log 15),
a start that comes after some samples of its tick (log 19), when the receipts BEAT counts as pending (log 26), and the rounds in which the slots are counted (log 36). -/
def Obligations.FrameStartsInAnOwnedSlot : Prop :=
  (∀ (s : State) (ref : FrameEndRef) (k : Nat) (kind : FlightKind),
      s.control.station = .active ∨ s.control.station = .closing → s.access.condition = .clear →
      s.access.flight = none → s.access.reference = some ref →
      2 ^ 48 * ref.rounds + (s.tb.localTime - ref.endTime).toNat = (3 + k) * (10 * ticksPerBit s.sig.rate) →
      slotOwner ref k = some s.sig.own → s.sig.history.head? ≠ some false →
      ¬ (s.sig.phase = .startCheck ∧ s.sig.startTick = s.tb.localTime) → s.chosen = some kind →
      exec .frameStart s = .next { s with
        tb := { s.tb with
          departure := if kind = .leavingBeat ∨ kind = .dueBeat ∨ kind = .receiptsBeat then some s.shared else none
          arrival := none }
        frames := { s.frames with assembly := none, copy := some (s.frameCopy kind) }
        access := { s.access with
          leavingPending := if kind = .leavingBeat then false else s.access.leavingPending
          due := if kind = .dueBeat then .inFlight else s.access.due
          receiptsPending := if kind = .receiptsBeat then false else s.access.receiptsPending
          condition := .sending
          flight := some {
            kind := kind
            collisions := s.countOf kind
            lost := false
            receipts := min 8 s.access.receipts.length
            start := s.tb.localTime } }
        sig := { s.sig with
          phase := .echo
          votes := []
          bits := []
          noisy := false
          waiting := none
          echoIndex := 0
          driving := true } })
  ∧ (∀ s t : State, s.sig.phase = .hunting → exec .startEdge s = .next t → exec .frameStart t = .next t)
  ∧ (∀ s : State, s.access.condition ≠ .clear ∨ s.access.flight ≠ none ∨ s.sig.history.head? = some false
        ∨ s.chosen = none
        ∨ (∀ ref k, s.access.reference = some ref →
            2 ^ 48 * ref.rounds + (s.tb.localTime - ref.endTime).toNat = (3 + k) * (10 * ticksPerBit s.sig.rate) →
            slotOwner ref k ≠ some s.sig.own) →
      exec .frameStart s = .next s)
  ∧ (∀ s : State,
      (s.control.station = .closing → s.access.leavingPending = true → s.chosen = some .leavingBeat)
      ∧ (s.control.station = .active → s.access.due = .pending → s.chosen = some .dueBeat)
      ∧ (s.control.station = .active → s.access.due ≠ .pending → ∀ p, s.pendingPosting = some p →
          s.chosen = some (.posting p.id p.isWithdraw))
      ∧ (s.control.station = .active → s.access.due ≠ .pending → s.pendingPosting = none → s.markPending = true →
          s.chosen = some (.mark s.marks.carried.length s.marks.sharedLoss))
      ∧ (s.control.station = .active → s.access.due ≠ .pending → s.pendingPosting = none → s.markPending = false →
          s.receiptsBeatPending = true → s.chosen = some .receiptsBeat)
      ∧ (s.control.station = .active → s.access.due ≠ .pending → s.pendingPosting = none → s.markPending = false →
          s.receiptsBeatPending = false → s.chosen = none)
      ∧ (s.control.station = .closing → s.access.leavingPending = false → s.chosen = none)
      ∧ (s.control.station ≠ .active → s.control.station ≠ .closing → s.chosen = none))
  ∧ (∀ s : State,
      let waits := fun p : Posting => p.state = .waiting ∧ ∀ f w, s.access.flight = some f → f.kind = .posting p.id w →
        f.lost = true
      (∀ p, s.pendingPosting = some p → ∃ front back, s.post.list = front ++ p :: back ∧ waits p ∧ ∀ q ∈ front, ¬ waits q)
      ∧ (s.pendingPosting = none → ∀ p ∈ s.post.list, ¬ waits p)
      ∧ (s.markPending = true ↔ s.control.station = .active ∧ s.marks.outgoing ≠ []
          ∧ ∀ f count loss, s.access.flight = some f → f.kind ≠ .mark count loss)
      ∧ (s.receiptsBeatPending = true ↔ s.access.receiptsPending = true ∧ s.receiptsBeatHolds)
      ∧ s.countOf .leavingBeat = s.access.leavingCount ∧ s.countOf .dueBeat = s.access.dueCount
      ∧ (∀ count loss, s.countOf (.mark count loss) = s.access.markCount)
      ∧ s.countOf .receiptsBeat = s.access.receiptsCount
      ∧ (∀ p w, s.posting? p.id = some p → s.countOf (.posting p.id w) = p.collisions)
      ∧ (s.marks.outgoing = [] → s.marks.carried = [])
      ∧ ∀ h rest, s.marks.outgoing = h :: rest → ∃ run back, s.marks.outgoing = run ++ back ∧ s.marks.carried = run.take 6
          ∧ (∀ m ∈ run, m.target = h.target) ∧ ∀ m, back.head? = some m → m.target ≠ h.target)

/-- What the station builds, a receiver reads back (R129 to R135, R145 to R148): the copy of a frame passes the content
test and the CRC check, with the own number as source, the frame sequence, the body of its kind, and the receipts of its
trailer; its lead is 0x9B (R129).  What is read from which character, and the CRC, are said at FramesThatEndBad. -/
def Obligations.BuiltFramesReadBackGood : Prop :=
  ∀ s : State,
    let receipts := (s.access.receipts.take 8).map fun r => ({ key := r.key, verdict := r.verdict } : Receipt)
    let reads := fun (kind : FlightKind) (body : LineBody) =>
      lineFrameOf (s.frameCopy kind)
        = some { source := s.sig.own, sequence := s.frames.sequence, body := body, receipts := receipts }
      ∧ crc ((s.frameCopy kind).drop 1) = 0 ∧ (s.frameCopy kind).head? = some 0x9B
    (∀ k, s.control.config = some k → k.beatCode.toNat ≤ 5 →
      let beat := fun leaving => LineBody.beat {
        tbState := s.tb.tbState
        leaving := leaving
        beatCode := k.beatCode
        groups := k.groups
        stamp := s.shared
        spread := s.tb.spread }
      reads .leavingBeat (beat true) ∧ reads .dueBeat (beat false) ∧ reads .receiptsBeat (beat false))
    ∧ (∀ p serials, s.posting? p.id = some p → p.body = .withdraw serials → 1 ≤ serials.length →
        serials.length ≤ 8 → reads (.posting p.id true) (.withdraw p.target serials))
    ∧ (∀ p records, s.posting? p.id = some p → p.body = .cue records → 1 ≤ records.length → records.length ≤ 4 →
        (∀ r ∈ records, r.spec.width.isSome = r.spec.action.usesWidth
          ∧ r.spec.period.isSome = r.spec.action.usesPeriod ∧ r.spec.count.isSome = r.spec.action.usesPeriod) →
        reads (.posting p.id false) (.cue p.target records))
    ∧ (∀ h rest, s.marks.outgoing = h :: rest → reads (.mark s.marks.carried.length s.marks.sharedLoss)
        (.mark h.target s.marks.sharedLoss (s.marks.carried.map OutMark.mark)))

/-- An echo check that passes before the frame's last character only looks to the next one (R164).  When the second CRC
character passes, the frame is sent whole (R165, R151): LDE is low, nothing is in flight, the reference is GOOD with the
own number, the sequence advances, its receipts leave the list, and its kind takes its own end: the due BEAT (R161), the
receipts BEAT, pending again if its condition holds (R162), a posting, which leaves the list when it is COMPLETE (R113,
R117), the marks (R80), the leaving BEAT in CLOSING, at which the station reaches PREP (R172, R202).  A frame that lost its
source makes no notice (log 25); the receipts BEAT is log 26; the read-back is taken as it comes (log 9). -/
def Obligations.EchoCheckPasses : Prop :=
  ∀ (s : State) (f : Flight) (chars : List Byte) (n : Nat) (back : ReadBack),
    s.access.flight = some f → s.frames.copy = some chars → s.sig.echoIndex = n → back.framing = false →
    chars[n]? = some back.value →
    (n + 1 < chars.length → exec (.echoCheck (some back)) s = .next { s with
      sig := { s.sig with echoIndex := n + 1, votes := [], bits := [], noisy := false } })
    ∧ (n + 1 = chars.length → ∃ t, exec (.echoCheck (some back)) s = .next t
      ∧ t.lde = false ∧ t.sig.phase = .hunting ∧ t.access.flight = none ∧ t.frames.copy = none
      ∧ t.tb.departure = none ∧ t.frames.sequence = s.frames.sequence + 1
      ∧ t.access.reference = some { endTime := s.tb.localTime, sender := some s.sig.own, good := true }
      ∧ (s.access.condition ≠ .held → t.access.condition = .clear)
      ∧ t.access.collisions = s.access.collisions ∧ t.access.drops = s.access.drops
      ∧ (f.kind ≠ .leavingBeat → t.access.receipts = s.access.receipts.drop f.receipts ∧ t.control = s.control)
      ∧ (f.kind = .dueBeat → f.lost = false → t.access.dueCount = 0
          ∧ t.access.due = if s.access.due = .renewed then .pending else .none)
      ∧ (f.kind = .receiptsBeat → f.lost = false → t.access.receiptsCount = 0
          ∧ (t.access.receiptsPending = true ↔ t.receiptsBeatHolds))
      ∧ (∀ count loss, f.kind = .mark count loss → t.access.markCount = 0
          ∧ t.marks.outgoing = s.marks.outgoing.drop count
          ∧ t.marks.sharedLoss.toNat = s.marks.sharedLoss.toNat - loss.toNat)
      ∧ (∀ p w, f.kind = .posting p.id w → f.lost = false → s.posting? p.id = some p → ¬ p.allAnswered →
          t.posting? p.id = some { p with
            sent := p.sent + 1
            state := .awaiting
            windowEnd := some (s.tb.localTime + BitVec.ofNat 48 (2 * s.beat))
            collisions := 0 }
          ∧ t.port = s.port)
      ∧ (∀ p w, f.kind = .posting p.id w → f.lost = false → s.posting? p.id = some p → p.allAnswered →
          (s.post.list.map Posting.id).Nodup → t.post.list = s.post.list.eraseP (fun q => q.id = p.id)
          ∧ t.port.queue = s.port.queue ++ [{
            lostBefore := s.port.lost
            body := .postingDone ({ p with sent := p.sent + 1 }.doneReport .complete) }])
      ∧ (f.lost = true → (f.kind = .dueBeat ∨ f.kind = .receiptsBeat ∨ ∃ id w, f.kind = .posting id w) →
          t.access.due = s.access.due ∧ t.access.dueCount = s.access.dueCount
          ∧ t.access.receiptsPending = s.access.receiptsPending ∧ t.access.receiptsCount = s.access.receiptsCount
          ∧ t.post = s.post ∧ t.port = s.port)
      ∧ (∀ k, f.kind = .leavingBeat → s.control.station = .closing → s.control.config = some k →
          s.clearedFrom k .left t
          ∧ (s.port.queue.length + s.post.list.length + 2 ≤ 48 →
            t.port.queue.map Report.body = s.port.queue.map Report.body ++ s.prepReports .left)))

/-- A collision (R164, R166, R151): a different value, the FRAMING flag, or no character releases the driver, discards the
copy and enters CUT WAIT, with the character counted as ending 1 ct after its start edge was driven; the sequence and the
receipts are kept (R125).  Below the eighth in succession the frame rejoins the pending set by its kind with its count; the
eighth drops it, with a TROUBLE report and the end of its kind (R167, R161, R119, R81), the leaving BEAT in CLOSING with
the station reaching PREP (R172, R202).  The count is the flight's (log 12); a lost source is log 25; the receipts BEAT is
log 26; the zeros of the TROUBLE report are log 41; the read-back is taken as it comes (log 9). -/
def Obligations.CollisionsCutAndDrop : Prop :=
  ∀ (s : State) (f : Flight) (chars : List Byte) (n : Nat) (sent : Byte) (back : Option ReadBack),
    s.access.flight = some f → s.frames.copy = some chars → s.sig.echoIndex = n → chars[n]? = some sent →
    (∀ b, back = some b → b.value ≠ sent ∨ b.framing = true) →
    ∃ t, exec (.echoCheck back) s = .next t
      ∧ t.lde = false ∧ t.sig.phase = .hunting ∧ t.access.flight = none ∧ t.frames.copy = none
      ∧ t.tb.departure = none ∧ t.frames.sequence = s.frames.sequence
      ∧ t.access.collisions = satInc s.access.collisions ∧ t.access.reference = s.access.reference
      ∧ t.access.condition = .cutWait
      ∧ t.access.cutEnd = some (f.start + BitVec.ofNat 48 ((n + 1) * (10 * ticksPerBit s.sig.rate)))
      ∧ (f.collisions + 1 < 8 → t.access.drops = s.access.drops ∧ t.port = s.port ∧ t.control = s.control
          ∧ t.access.receipts = s.access.receipts ∧ t.marks = s.marks
          ∧ (f.kind = .dueBeat → f.lost = false → t.access.due = .pending ∧ t.access.dueCount = f.collisions + 1
              ∧ t.access.beatsSkipped
                = if s.access.due = .renewed then satInc s.access.beatsSkipped else s.access.beatsSkipped)
          ∧ (f.kind = .leavingBeat → s.control.station = .closing →
              t.access.leavingPending = true ∧ t.access.leavingCount = f.collisions + 1)
          ∧ (∀ count loss, f.kind = .mark count loss → t.access.markCount = f.collisions + 1)
          ∧ (∀ p w, f.kind = .posting p.id w → f.lost = false → s.posting? p.id = some p →
              t.posting? p.id = some { p with collisions := f.collisions + 1 })
          ∧ (f.kind = .receiptsBeat → f.lost = false → (t.access.receiptsPending = true ↔ t.receiptsBeatHolds)
              ∧ (t.receiptsBeatHolds → t.access.receiptsCount = f.collisions + 1)
              ∧ (¬ t.receiptsBeatHolds → t.access.receiptsCount = 0))
          ∧ (f.lost = true → f.kind = .dueBeat ∨ f.kind = .receiptsBeat ∨ (∃ id w, f.kind = .posting id w) →
              t.access.due = s.access.due ∧ t.access.receiptsPending = s.access.receiptsPending ∧ t.post = s.post))
      ∧ (8 ≤ f.collisions + 1 → t.access.drops = satInc s.access.drops
          ∧ (f.kind ≠ .leavingBeat ∨ s.control.station ≠ .closing → t.access.receipts = s.access.receipts)
          ∧ (f.kind = .receiptsBeat → f.lost = false →
              t.access.receiptsCount = 0 ∧ (t.access.receiptsPending = true ↔ t.receiptsBeatHolds))
          ∧ (s.port.queue.length + s.post.list.length < 48 →
              (t.port.queue.map Report.body)[s.port.queue.length]? = some (match f.kind with
                | .dueBeat => .lineTrouble .dueBeat 0 0
                | .receiptsBeat => .lineTrouble .receiptsBeat 0 0
                | .leavingBeat => .lineTrouble .leavingBeat 0 0
                | .posting id w => .lineTrouble (if w then .withdraw else .cue) id 0
                | .mark count _ => .lineTrouble .mark 0 count))
          ∧ (f.kind = .dueBeat → f.lost = false → t.access.dueCount = 0
              ∧ t.access.due = if s.access.due = .renewed then .pending else .none)
          ∧ (∀ count loss, f.kind = .mark count loss → t.access.markCount = 0
              ∧ t.marks.outgoing = s.marks.outgoing.drop count
              ∧ t.marks.sharedLoss = satAdd s.marks.sharedLoss count)
          ∧ (∀ p w, f.kind = .posting p.id w → f.lost = false → s.posting? p.id = some p →
              t.post.list = s.post.list.eraseP (fun q => q.id = p.id)
              ∧ t.port.queue.getLast?.map Report.body = some (.postingDone (p.doneReport .lineFailed)))
          ∧ (f.lost = true → (f.kind = .dueBeat ∨ f.kind = .receiptsBeat ∨ ∃ id w, f.kind = .posting id w) →
              t.access.due = s.access.due ∧ t.access.dueCount = s.access.dueCount
              ∧ t.access.receiptsPending = s.access.receiptsPending ∧ t.access.receiptsCount = s.access.receiptsCount
              ∧ t.post = s.post)
          ∧ (∀ k, f.kind = .leavingBeat → s.control.station = .closing → s.control.config = some k →
              s.clearedFrom k .leaveDropped t
              ∧ (s.port.queue.length + s.post.list.length + 3 ≤ 48 →
                t.port.queue.map Report.body = s.port.queue.map Report.body ++ [.lineTrouble .leavingBeat 0 0]
                  ++ s.prepReports .leaveDropped)))

/-- CUT_WAIT_END (R151): 1.5 ct after the last character seen, with no start edge since, the reference is set not GOOD from
that character's end, and the line is CLEAR.  RECEIPTS_BEAT_PENDING (R159, R162): in ACTIVE with no other frame pending or
in flight and the oldest receipt older than B/2, a receipts BEAT is pending; otherwise nothing changes (log 26, and log 2).
Both from their tick on (log 20). -/
def Obligations.CutWaitEndsAndReceiptsBeatComes : Prop :=
  ∀ s : State,
    (∀ e, s.access.condition = .cutWait → s.access.cutEnd = some e → s.sig.phase = .hunting → s.sig.waiting = none →
      (s.tb.localTime - (e + BitVec.ofNat 48 (15 * ticksPerBit s.sig.rate))).toNat < 2 ^ 47 →
      exec .cutWaitEnd s = .next { s with access := { s.access with
        reference := some { endTime := e, sender := none, good := false }
        condition := .clear
        cutEnd := none } })
    ∧ (s.receiptsBeatHolds →
      exec .receiptsBeatPending s = .next { s with access := { s.access with receiptsPending := true } })
    ∧ (¬ s.receiptsBeatHolds → exec .receiptsBeatPending s = .next s)

/-- LINE_HELD and HELD_END.  The detector is FOUND and then WATCHING again in every receiver state (R186, R187).  Outside a
HELD episode and while the station is not sending, the line is HELD, the episode is counted and reported with the shared time
(R169); when it ends the line is CLEAR, with a reference that is not GOOD from this tick (R170).  A notice while the station
is sending leaves the line condition, and so does the end of a run whose notice was not taken (log 33).
Both are taken by the detector's state alone (log 9). -/
def Obligations.HeldLineIsFoundAndEnds : Prop :=
  ∀ s : State,
    let found := { s with sig := { s.sig with found := true, runLength := 0 } }
    let ended := { s with sig := { s.sig with found := false, runLength := 0 } }
    (s.sig.found = false → s.access.flight = none → exec .lineHeld s = .next (queueReport (.lineHeld s.shared)
      { found with access := { s.access with
        condition := .held
        cutEnd := none
        heldEpisodes := if s.access.heldEpisodes = 65535 then 65535 else s.access.heldEpisodes + 1 } }))
    ∧ (s.sig.found = false → s.access.flight ≠ none → exec .lineHeld s = .next found)
    ∧ (s.sig.found = true → s.access.condition = .held → exec .heldEnd s = .next { ended with
      access := { s.access with
        condition := .clear
        cutEnd := none
        reference := some { endTime := s.tb.localTime, sender := none, good := false } } })
    ∧ (s.sig.found = true → s.access.condition ≠ .held → exec .heldEnd s = .next ended)

/-! ## The laws of the device -/

/-- Every step keeps Laws 1 and 2: at most 64 held cues with distinct keys, and no key both held and recent (R29, R31). -/
def Obligations.CueTableLawsAreKept : Prop :=
  ∀ s t : State, Law1 s → Law2 s → step s = .next t → Law1 t ∧ Law2 t

/-- Every step keeps Law 3: reports in the queue and postings in the list together never exceed 48 (R107, R211). -/
def Obligations.ReportRoomLawIsKept : Prop :=
  ∀ s t : State, Law3 s → step s = .next t → Law3 t

/-- Every step keeps Law 6, the timebase LOCKED or HOLDOVER only outside PREP (R202), and Law 9, runs only outside PREP
(R56). -/
def Obligations.PrepLawsAreKept : Prop :=
  ∀ s t : State, Law6 s → Law9 s → step s = .next t → Law6 t ∧ Law9 t

/-- Every step keeps Law 4, the bounds of the posting list (R103), Law 8, no verdict missing from an ABSENT station (R118),
and Law 11, the own entry SELF and in no expected set (R86, R108). -/
def Obligations.PostingLawsAreKept : Prop :=
  ∀ s t : State, Law4 s → Law8 s → Law11 s → step s = .next t → Law4 t ∧ Law8 t ∧ Law11 t

/-- Every step keeps, beside Law 4, Law 10, at most 16 receipts and 8 in a frame (R124, R125), and Law 12, no frame of more
than 96 characters (R129, R145). -/
def Obligations.FrameSizeLawsAreKept : Prop :=
  ∀ s t : State, Law4 s → Law10 s → Law12 s → step s = .next t → Law10 t ∧ Law12 t

/-- Law 7 (R157): a step that starts a frame does so in ACTIVE or CLOSING, at the beginning of a slot the station owns, and
not in the first round after a reference that is not GOOD.  The slots run on without limit (log 36). -/
def Obligations.FramesStartOnlyInOwnedSlots : Prop :=
  ∀ s t : State, step s = .next t → Law7 s t
end

