-- ==== Sys2Proof/Laws/State.lean ====
section
/-! SUPPORT. One lemma for each field after each update of a block: no proof unfolds an update. -/

namespace Sys2Proof.Machine

variable (s : State)

/-! ### Pending -/

@[simp] theorem onPending_pending (f : List Instr → List Instr) : (s.onPending f).pending = f s.pending := rfl
@[simp] theorem onPending_tb (f : List Instr → List Instr) : (s.onPending f).tb = s.tb := rfl
@[simp] theorem onPending_cues (f : List Instr → List Instr) : (s.onPending f).cues = s.cues := rfl
@[simp] theorem onPending_chans (f : List Instr → List Instr) : (s.onPending f).chans = s.chans := rfl
@[simp] theorem onPending_marks (f : List Instr → List Instr) : (s.onPending f).marks = s.marks := rfl
@[simp] theorem onPending_roster (f : List Instr → List Instr) : (s.onPending f).roster = s.roster := rfl
@[simp] theorem onPending_post (f : List Instr → List Instr) : (s.onPending f).post = s.post := rfl
@[simp] theorem onPending_frames (f : List Instr → List Instr) : (s.onPending f).frames = s.frames := rfl
@[simp] theorem onPending_access (f : List Instr → List Instr) : (s.onPending f).access = s.access := rfl
@[simp] theorem onPending_sig (f : List Instr → List Instr) : (s.onPending f).sig = s.sig := rfl
@[simp] theorem onPending_control (f : List Instr → List Instr) : (s.onPending f).control = s.control := rfl
@[simp] theorem onPending_port (f : List Instr → List Instr) : (s.onPending f).port = s.port := rfl
@[simp] theorem onPending_world (f : List Instr → List Instr) : (s.onPending f).world = s.world := rfl
@[simp] theorem onPending_freeCount (f : List Instr → List Instr) : (s.onPending f).freeCount = s.freeCount := rfl
@[simp] theorem onPending_stepFixed (f : List Instr → List Instr) : (s.onPending f).stepFixed = s.stepFixed := rfl

/-! ### Tb -/

@[simp] theorem onTb_pending (f : Timebase → Timebase) : (s.onTb f).pending = s.pending := rfl
@[simp] theorem onTb_tb (f : Timebase → Timebase) : (s.onTb f).tb = f s.tb := rfl
@[simp] theorem onTb_cues (f : Timebase → Timebase) : (s.onTb f).cues = s.cues := rfl
@[simp] theorem onTb_chans (f : Timebase → Timebase) : (s.onTb f).chans = s.chans := rfl
@[simp] theorem onTb_marks (f : Timebase → Timebase) : (s.onTb f).marks = s.marks := rfl
@[simp] theorem onTb_roster (f : Timebase → Timebase) : (s.onTb f).roster = s.roster := rfl
@[simp] theorem onTb_post (f : Timebase → Timebase) : (s.onTb f).post = s.post := rfl
@[simp] theorem onTb_frames (f : Timebase → Timebase) : (s.onTb f).frames = s.frames := rfl
@[simp] theorem onTb_access (f : Timebase → Timebase) : (s.onTb f).access = s.access := rfl
@[simp] theorem onTb_sig (f : Timebase → Timebase) : (s.onTb f).sig = s.sig := rfl
@[simp] theorem onTb_control (f : Timebase → Timebase) : (s.onTb f).control = s.control := rfl
@[simp] theorem onTb_port (f : Timebase → Timebase) : (s.onTb f).port = s.port := rfl
@[simp] theorem onTb_world (f : Timebase → Timebase) : (s.onTb f).world = s.world := rfl
@[simp] theorem onTb_freeCount (f : Timebase → Timebase) : (s.onTb f).freeCount = s.freeCount := rfl
@[simp] theorem onTb_stepFixed (f : Timebase → Timebase) : (s.onTb f).stepFixed = s.stepFixed := rfl

/-! ### Cues -/

@[simp] theorem onCues_pending (f : CueTable → CueTable) : (s.onCues f).pending = s.pending := rfl
@[simp] theorem onCues_tb (f : CueTable → CueTable) : (s.onCues f).tb = s.tb := rfl
@[simp] theorem onCues_cues (f : CueTable → CueTable) : (s.onCues f).cues = f s.cues := rfl
@[simp] theorem onCues_chans (f : CueTable → CueTable) : (s.onCues f).chans = s.chans := rfl
@[simp] theorem onCues_marks (f : CueTable → CueTable) : (s.onCues f).marks = s.marks := rfl
@[simp] theorem onCues_roster (f : CueTable → CueTable) : (s.onCues f).roster = s.roster := rfl
@[simp] theorem onCues_post (f : CueTable → CueTable) : (s.onCues f).post = s.post := rfl
@[simp] theorem onCues_frames (f : CueTable → CueTable) : (s.onCues f).frames = s.frames := rfl
@[simp] theorem onCues_access (f : CueTable → CueTable) : (s.onCues f).access = s.access := rfl
@[simp] theorem onCues_sig (f : CueTable → CueTable) : (s.onCues f).sig = s.sig := rfl
@[simp] theorem onCues_control (f : CueTable → CueTable) : (s.onCues f).control = s.control := rfl
@[simp] theorem onCues_port (f : CueTable → CueTable) : (s.onCues f).port = s.port := rfl
@[simp] theorem onCues_world (f : CueTable → CueTable) : (s.onCues f).world = s.world := rfl
@[simp] theorem onCues_freeCount (f : CueTable → CueTable) : (s.onCues f).freeCount = s.freeCount := rfl
@[simp] theorem onCues_stepFixed (f : CueTable → CueTable) : (s.onCues f).stepFixed = s.stepFixed := rfl

/-! ### Chans -/

@[simp] theorem onChans_pending (f : Vector Channel 8 → Vector Channel 8) : (s.onChans f).pending = s.pending := rfl
@[simp] theorem onChans_tb (f : Vector Channel 8 → Vector Channel 8) : (s.onChans f).tb = s.tb := rfl
@[simp] theorem onChans_cues (f : Vector Channel 8 → Vector Channel 8) : (s.onChans f).cues = s.cues := rfl
@[simp] theorem onChans_chans (f : Vector Channel 8 → Vector Channel 8) : (s.onChans f).chans = f s.chans := rfl
@[simp] theorem onChans_marks (f : Vector Channel 8 → Vector Channel 8) : (s.onChans f).marks = s.marks := rfl
@[simp] theorem onChans_roster (f : Vector Channel 8 → Vector Channel 8) : (s.onChans f).roster = s.roster := rfl
@[simp] theorem onChans_post (f : Vector Channel 8 → Vector Channel 8) : (s.onChans f).post = s.post := rfl
@[simp] theorem onChans_frames (f : Vector Channel 8 → Vector Channel 8) : (s.onChans f).frames = s.frames := rfl
@[simp] theorem onChans_access (f : Vector Channel 8 → Vector Channel 8) : (s.onChans f).access = s.access := rfl
@[simp] theorem onChans_sig (f : Vector Channel 8 → Vector Channel 8) : (s.onChans f).sig = s.sig := rfl
@[simp] theorem onChans_control (f : Vector Channel 8 → Vector Channel 8) : (s.onChans f).control = s.control := rfl
@[simp] theorem onChans_port (f : Vector Channel 8 → Vector Channel 8) : (s.onChans f).port = s.port := rfl
@[simp] theorem onChans_world (f : Vector Channel 8 → Vector Channel 8) : (s.onChans f).world = s.world := rfl
@[simp] theorem onChans_freeCount (f : Vector Channel 8 → Vector Channel 8) : (s.onChans f).freeCount = s.freeCount := rfl
@[simp] theorem onChans_stepFixed (f : Vector Channel 8 → Vector Channel 8) : (s.onChans f).stepFixed = s.stepFixed := rfl

/-! ### Marks -/

@[simp] theorem onMarks_pending (f : MarkSide → MarkSide) : (s.onMarks f).pending = s.pending := rfl
@[simp] theorem onMarks_tb (f : MarkSide → MarkSide) : (s.onMarks f).tb = s.tb := rfl
@[simp] theorem onMarks_cues (f : MarkSide → MarkSide) : (s.onMarks f).cues = s.cues := rfl
@[simp] theorem onMarks_chans (f : MarkSide → MarkSide) : (s.onMarks f).chans = s.chans := rfl
@[simp] theorem onMarks_marks (f : MarkSide → MarkSide) : (s.onMarks f).marks = f s.marks := rfl
@[simp] theorem onMarks_roster (f : MarkSide → MarkSide) : (s.onMarks f).roster = s.roster := rfl
@[simp] theorem onMarks_post (f : MarkSide → MarkSide) : (s.onMarks f).post = s.post := rfl
@[simp] theorem onMarks_frames (f : MarkSide → MarkSide) : (s.onMarks f).frames = s.frames := rfl
@[simp] theorem onMarks_access (f : MarkSide → MarkSide) : (s.onMarks f).access = s.access := rfl
@[simp] theorem onMarks_sig (f : MarkSide → MarkSide) : (s.onMarks f).sig = s.sig := rfl
@[simp] theorem onMarks_control (f : MarkSide → MarkSide) : (s.onMarks f).control = s.control := rfl
@[simp] theorem onMarks_port (f : MarkSide → MarkSide) : (s.onMarks f).port = s.port := rfl
@[simp] theorem onMarks_world (f : MarkSide → MarkSide) : (s.onMarks f).world = s.world := rfl
@[simp] theorem onMarks_freeCount (f : MarkSide → MarkSide) : (s.onMarks f).freeCount = s.freeCount := rfl
@[simp] theorem onMarks_stepFixed (f : MarkSide → MarkSide) : (s.onMarks f).stepFixed = s.stepFixed := rfl

/-! ### Roster -/

@[simp] theorem onRoster_pending (f : Roster → Roster) : (s.onRoster f).pending = s.pending := rfl
@[simp] theorem onRoster_tb (f : Roster → Roster) : (s.onRoster f).tb = s.tb := rfl
@[simp] theorem onRoster_cues (f : Roster → Roster) : (s.onRoster f).cues = s.cues := rfl
@[simp] theorem onRoster_chans (f : Roster → Roster) : (s.onRoster f).chans = s.chans := rfl
@[simp] theorem onRoster_marks (f : Roster → Roster) : (s.onRoster f).marks = s.marks := rfl
@[simp] theorem onRoster_roster (f : Roster → Roster) : (s.onRoster f).roster = f s.roster := rfl
@[simp] theorem onRoster_post (f : Roster → Roster) : (s.onRoster f).post = s.post := rfl
@[simp] theorem onRoster_frames (f : Roster → Roster) : (s.onRoster f).frames = s.frames := rfl
@[simp] theorem onRoster_access (f : Roster → Roster) : (s.onRoster f).access = s.access := rfl
@[simp] theorem onRoster_sig (f : Roster → Roster) : (s.onRoster f).sig = s.sig := rfl
@[simp] theorem onRoster_control (f : Roster → Roster) : (s.onRoster f).control = s.control := rfl
@[simp] theorem onRoster_port (f : Roster → Roster) : (s.onRoster f).port = s.port := rfl
@[simp] theorem onRoster_world (f : Roster → Roster) : (s.onRoster f).world = s.world := rfl
@[simp] theorem onRoster_freeCount (f : Roster → Roster) : (s.onRoster f).freeCount = s.freeCount := rfl
@[simp] theorem onRoster_stepFixed (f : Roster → Roster) : (s.onRoster f).stepFixed = s.stepFixed := rfl

/-! ### Post -/

@[simp] theorem onPost_pending (f : PostingUnit → PostingUnit) : (s.onPost f).pending = s.pending := rfl
@[simp] theorem onPost_tb (f : PostingUnit → PostingUnit) : (s.onPost f).tb = s.tb := rfl
@[simp] theorem onPost_cues (f : PostingUnit → PostingUnit) : (s.onPost f).cues = s.cues := rfl
@[simp] theorem onPost_chans (f : PostingUnit → PostingUnit) : (s.onPost f).chans = s.chans := rfl
@[simp] theorem onPost_marks (f : PostingUnit → PostingUnit) : (s.onPost f).marks = s.marks := rfl
@[simp] theorem onPost_roster (f : PostingUnit → PostingUnit) : (s.onPost f).roster = s.roster := rfl
@[simp] theorem onPost_post (f : PostingUnit → PostingUnit) : (s.onPost f).post = f s.post := rfl
@[simp] theorem onPost_frames (f : PostingUnit → PostingUnit) : (s.onPost f).frames = s.frames := rfl
@[simp] theorem onPost_access (f : PostingUnit → PostingUnit) : (s.onPost f).access = s.access := rfl
@[simp] theorem onPost_sig (f : PostingUnit → PostingUnit) : (s.onPost f).sig = s.sig := rfl
@[simp] theorem onPost_control (f : PostingUnit → PostingUnit) : (s.onPost f).control = s.control := rfl
@[simp] theorem onPost_port (f : PostingUnit → PostingUnit) : (s.onPost f).port = s.port := rfl
@[simp] theorem onPost_world (f : PostingUnit → PostingUnit) : (s.onPost f).world = s.world := rfl
@[simp] theorem onPost_freeCount (f : PostingUnit → PostingUnit) : (s.onPost f).freeCount = s.freeCount := rfl
@[simp] theorem onPost_stepFixed (f : PostingUnit → PostingUnit) : (s.onPost f).stepFixed = s.stepFixed := rfl

/-! ### Frames -/

@[simp] theorem onFrames_pending (f : FrameUnit → FrameUnit) : (s.onFrames f).pending = s.pending := rfl
@[simp] theorem onFrames_tb (f : FrameUnit → FrameUnit) : (s.onFrames f).tb = s.tb := rfl
@[simp] theorem onFrames_cues (f : FrameUnit → FrameUnit) : (s.onFrames f).cues = s.cues := rfl
@[simp] theorem onFrames_chans (f : FrameUnit → FrameUnit) : (s.onFrames f).chans = s.chans := rfl
@[simp] theorem onFrames_marks (f : FrameUnit → FrameUnit) : (s.onFrames f).marks = s.marks := rfl
@[simp] theorem onFrames_roster (f : FrameUnit → FrameUnit) : (s.onFrames f).roster = s.roster := rfl
@[simp] theorem onFrames_post (f : FrameUnit → FrameUnit) : (s.onFrames f).post = s.post := rfl
@[simp] theorem onFrames_frames (f : FrameUnit → FrameUnit) : (s.onFrames f).frames = f s.frames := rfl
@[simp] theorem onFrames_access (f : FrameUnit → FrameUnit) : (s.onFrames f).access = s.access := rfl
@[simp] theorem onFrames_sig (f : FrameUnit → FrameUnit) : (s.onFrames f).sig = s.sig := rfl
@[simp] theorem onFrames_control (f : FrameUnit → FrameUnit) : (s.onFrames f).control = s.control := rfl
@[simp] theorem onFrames_port (f : FrameUnit → FrameUnit) : (s.onFrames f).port = s.port := rfl
@[simp] theorem onFrames_world (f : FrameUnit → FrameUnit) : (s.onFrames f).world = s.world := rfl
@[simp] theorem onFrames_freeCount (f : FrameUnit → FrameUnit) : (s.onFrames f).freeCount = s.freeCount := rfl
@[simp] theorem onFrames_stepFixed (f : FrameUnit → FrameUnit) : (s.onFrames f).stepFixed = s.stepFixed := rfl

/-! ### Access -/

@[simp] theorem onAccess_pending (f : LineAccess → LineAccess) : (s.onAccess f).pending = s.pending := rfl
@[simp] theorem onAccess_tb (f : LineAccess → LineAccess) : (s.onAccess f).tb = s.tb := rfl
@[simp] theorem onAccess_cues (f : LineAccess → LineAccess) : (s.onAccess f).cues = s.cues := rfl
@[simp] theorem onAccess_chans (f : LineAccess → LineAccess) : (s.onAccess f).chans = s.chans := rfl
@[simp] theorem onAccess_marks (f : LineAccess → LineAccess) : (s.onAccess f).marks = s.marks := rfl
@[simp] theorem onAccess_roster (f : LineAccess → LineAccess) : (s.onAccess f).roster = s.roster := rfl
@[simp] theorem onAccess_post (f : LineAccess → LineAccess) : (s.onAccess f).post = s.post := rfl
@[simp] theorem onAccess_frames (f : LineAccess → LineAccess) : (s.onAccess f).frames = s.frames := rfl
@[simp] theorem onAccess_access (f : LineAccess → LineAccess) : (s.onAccess f).access = f s.access := rfl
@[simp] theorem onAccess_sig (f : LineAccess → LineAccess) : (s.onAccess f).sig = s.sig := rfl
@[simp] theorem onAccess_control (f : LineAccess → LineAccess) : (s.onAccess f).control = s.control := rfl
@[simp] theorem onAccess_port (f : LineAccess → LineAccess) : (s.onAccess f).port = s.port := rfl
@[simp] theorem onAccess_world (f : LineAccess → LineAccess) : (s.onAccess f).world = s.world := rfl
@[simp] theorem onAccess_freeCount (f : LineAccess → LineAccess) : (s.onAccess f).freeCount = s.freeCount := rfl
@[simp] theorem onAccess_stepFixed (f : LineAccess → LineAccess) : (s.onAccess f).stepFixed = s.stepFixed := rfl

/-! ### Sig -/

@[simp] theorem onSig_pending (f : Signalling → Signalling) : (s.onSig f).pending = s.pending := rfl
@[simp] theorem onSig_tb (f : Signalling → Signalling) : (s.onSig f).tb = s.tb := rfl
@[simp] theorem onSig_cues (f : Signalling → Signalling) : (s.onSig f).cues = s.cues := rfl
@[simp] theorem onSig_chans (f : Signalling → Signalling) : (s.onSig f).chans = s.chans := rfl
@[simp] theorem onSig_marks (f : Signalling → Signalling) : (s.onSig f).marks = s.marks := rfl
@[simp] theorem onSig_roster (f : Signalling → Signalling) : (s.onSig f).roster = s.roster := rfl
@[simp] theorem onSig_post (f : Signalling → Signalling) : (s.onSig f).post = s.post := rfl
@[simp] theorem onSig_frames (f : Signalling → Signalling) : (s.onSig f).frames = s.frames := rfl
@[simp] theorem onSig_access (f : Signalling → Signalling) : (s.onSig f).access = s.access := rfl
@[simp] theorem onSig_sig (f : Signalling → Signalling) : (s.onSig f).sig = f s.sig := rfl
@[simp] theorem onSig_control (f : Signalling → Signalling) : (s.onSig f).control = s.control := rfl
@[simp] theorem onSig_port (f : Signalling → Signalling) : (s.onSig f).port = s.port := rfl
@[simp] theorem onSig_world (f : Signalling → Signalling) : (s.onSig f).world = s.world := rfl
@[simp] theorem onSig_freeCount (f : Signalling → Signalling) : (s.onSig f).freeCount = s.freeCount := rfl
@[simp] theorem onSig_stepFixed (f : Signalling → Signalling) : (s.onSig f).stepFixed = s.stepFixed := rfl

/-! ### Control -/

@[simp] theorem onControl_pending (f : StationControl → StationControl) : (s.onControl f).pending = s.pending := rfl
@[simp] theorem onControl_tb (f : StationControl → StationControl) : (s.onControl f).tb = s.tb := rfl
@[simp] theorem onControl_cues (f : StationControl → StationControl) : (s.onControl f).cues = s.cues := rfl
@[simp] theorem onControl_chans (f : StationControl → StationControl) : (s.onControl f).chans = s.chans := rfl
@[simp] theorem onControl_marks (f : StationControl → StationControl) : (s.onControl f).marks = s.marks := rfl
@[simp] theorem onControl_roster (f : StationControl → StationControl) : (s.onControl f).roster = s.roster := rfl
@[simp] theorem onControl_post (f : StationControl → StationControl) : (s.onControl f).post = s.post := rfl
@[simp] theorem onControl_frames (f : StationControl → StationControl) : (s.onControl f).frames = s.frames := rfl
@[simp] theorem onControl_access (f : StationControl → StationControl) : (s.onControl f).access = s.access := rfl
@[simp] theorem onControl_sig (f : StationControl → StationControl) : (s.onControl f).sig = s.sig := rfl
@[simp] theorem onControl_control (f : StationControl → StationControl) : (s.onControl f).control = f s.control := rfl
@[simp] theorem onControl_port (f : StationControl → StationControl) : (s.onControl f).port = s.port := rfl
@[simp] theorem onControl_world (f : StationControl → StationControl) : (s.onControl f).world = s.world := rfl
@[simp] theorem onControl_freeCount (f : StationControl → StationControl) : (s.onControl f).freeCount = s.freeCount := rfl
@[simp] theorem onControl_stepFixed (f : StationControl → StationControl) : (s.onControl f).stepFixed = s.stepFixed := rfl

/-! ### Port -/

@[simp] theorem onPort_pending (f : LocalPort → LocalPort) : (s.onPort f).pending = s.pending := rfl
@[simp] theorem onPort_tb (f : LocalPort → LocalPort) : (s.onPort f).tb = s.tb := rfl
@[simp] theorem onPort_cues (f : LocalPort → LocalPort) : (s.onPort f).cues = s.cues := rfl
@[simp] theorem onPort_chans (f : LocalPort → LocalPort) : (s.onPort f).chans = s.chans := rfl
@[simp] theorem onPort_marks (f : LocalPort → LocalPort) : (s.onPort f).marks = s.marks := rfl
@[simp] theorem onPort_roster (f : LocalPort → LocalPort) : (s.onPort f).roster = s.roster := rfl
@[simp] theorem onPort_post (f : LocalPort → LocalPort) : (s.onPort f).post = s.post := rfl
@[simp] theorem onPort_frames (f : LocalPort → LocalPort) : (s.onPort f).frames = s.frames := rfl
@[simp] theorem onPort_access (f : LocalPort → LocalPort) : (s.onPort f).access = s.access := rfl
@[simp] theorem onPort_sig (f : LocalPort → LocalPort) : (s.onPort f).sig = s.sig := rfl
@[simp] theorem onPort_control (f : LocalPort → LocalPort) : (s.onPort f).control = s.control := rfl
@[simp] theorem onPort_port (f : LocalPort → LocalPort) : (s.onPort f).port = f s.port := rfl
@[simp] theorem onPort_world (f : LocalPort → LocalPort) : (s.onPort f).world = s.world := rfl
@[simp] theorem onPort_freeCount (f : LocalPort → LocalPort) : (s.onPort f).freeCount = s.freeCount := rfl
@[simp] theorem onPort_stepFixed (f : LocalPort → LocalPort) : (s.onPort f).stepFixed = s.stepFixed := rfl

/-! ### World -/

@[simp] theorem onWorld_pending (f : World → World) : (s.onWorld f).pending = s.pending := rfl
@[simp] theorem onWorld_tb (f : World → World) : (s.onWorld f).tb = s.tb := rfl
@[simp] theorem onWorld_cues (f : World → World) : (s.onWorld f).cues = s.cues := rfl
@[simp] theorem onWorld_chans (f : World → World) : (s.onWorld f).chans = s.chans := rfl
@[simp] theorem onWorld_marks (f : World → World) : (s.onWorld f).marks = s.marks := rfl
@[simp] theorem onWorld_roster (f : World → World) : (s.onWorld f).roster = s.roster := rfl
@[simp] theorem onWorld_post (f : World → World) : (s.onWorld f).post = s.post := rfl
@[simp] theorem onWorld_frames (f : World → World) : (s.onWorld f).frames = s.frames := rfl
@[simp] theorem onWorld_access (f : World → World) : (s.onWorld f).access = s.access := rfl
@[simp] theorem onWorld_sig (f : World → World) : (s.onWorld f).sig = s.sig := rfl
@[simp] theorem onWorld_control (f : World → World) : (s.onWorld f).control = s.control := rfl
@[simp] theorem onWorld_port (f : World → World) : (s.onWorld f).port = s.port := rfl
@[simp] theorem onWorld_world (f : World → World) : (s.onWorld f).world = f s.world := rfl
@[simp] theorem onWorld_freeCount (f : World → World) : (s.onWorld f).freeCount = s.freeCount := rfl
@[simp] theorem onWorld_stepFixed (f : World → World) : (s.onWorld f).stepFixed = s.stepFixed := rfl

/-! ### Free -/

@[simp] theorem onFree_pending (f : Nat → Nat) : (s.onFree f).pending = s.pending := rfl
@[simp] theorem onFree_tb (f : Nat → Nat) : (s.onFree f).tb = s.tb := rfl
@[simp] theorem onFree_cues (f : Nat → Nat) : (s.onFree f).cues = s.cues := rfl
@[simp] theorem onFree_chans (f : Nat → Nat) : (s.onFree f).chans = s.chans := rfl
@[simp] theorem onFree_marks (f : Nat → Nat) : (s.onFree f).marks = s.marks := rfl
@[simp] theorem onFree_roster (f : Nat → Nat) : (s.onFree f).roster = s.roster := rfl
@[simp] theorem onFree_post (f : Nat → Nat) : (s.onFree f).post = s.post := rfl
@[simp] theorem onFree_frames (f : Nat → Nat) : (s.onFree f).frames = s.frames := rfl
@[simp] theorem onFree_access (f : Nat → Nat) : (s.onFree f).access = s.access := rfl
@[simp] theorem onFree_sig (f : Nat → Nat) : (s.onFree f).sig = s.sig := rfl
@[simp] theorem onFree_control (f : Nat → Nat) : (s.onFree f).control = s.control := rfl
@[simp] theorem onFree_port (f : Nat → Nat) : (s.onFree f).port = s.port := rfl
@[simp] theorem onFree_world (f : Nat → Nat) : (s.onFree f).world = s.world := rfl
@[simp] theorem onFree_freeCount (f : Nat → Nat) : (s.onFree f).freeCount = f s.freeCount := rfl
@[simp] theorem onFree_stepFixed (f : Nat → Nat) : (s.onFree f).stepFixed = s.stepFixed := rfl

/-! ### StepFixed -/

@[simp] theorem fixStep_pending (b : Bool) : (s.fixStep b).pending = s.pending := rfl
@[simp] theorem fixStep_tb (b : Bool) : (s.fixStep b).tb = s.tb := rfl
@[simp] theorem fixStep_cues (b : Bool) : (s.fixStep b).cues = s.cues := rfl
@[simp] theorem fixStep_chans (b : Bool) : (s.fixStep b).chans = s.chans := rfl
@[simp] theorem fixStep_marks (b : Bool) : (s.fixStep b).marks = s.marks := rfl
@[simp] theorem fixStep_roster (b : Bool) : (s.fixStep b).roster = s.roster := rfl
@[simp] theorem fixStep_post (b : Bool) : (s.fixStep b).post = s.post := rfl
@[simp] theorem fixStep_frames (b : Bool) : (s.fixStep b).frames = s.frames := rfl
@[simp] theorem fixStep_access (b : Bool) : (s.fixStep b).access = s.access := rfl
@[simp] theorem fixStep_sig (b : Bool) : (s.fixStep b).sig = s.sig := rfl
@[simp] theorem fixStep_control (b : Bool) : (s.fixStep b).control = s.control := rfl
@[simp] theorem fixStep_port (b : Bool) : (s.fixStep b).port = s.port := rfl
@[simp] theorem fixStep_world (b : Bool) : (s.fixStep b).world = s.world := rfl
@[simp] theorem fixStep_freeCount (b : Bool) : (s.fixStep b).freeCount = s.freeCount := rfl
@[simp] theorem fixStep_stepFixed (b : Bool) : (s.fixStep b).stepFixed = (s.stepFixed || b) := rfl

end Sys2Proof.Machine
end

