-- ==== Sys2Proof/Laws/Reports.lean ====
section
/-! SUPPORT. What the operations of Ops.lean change and leave alone. -/

namespace Sys2Proof.Machine

variable (s : State)

/-- What enqueue leaves alone. -/
@[simp] theorem enqueue_frame (b : ReportBody) :
    (enqueue b s).pending = s.pending ∧ (enqueue b s).tb = s.tb ∧ (enqueue b s).cues = s.cues
     ∧ (enqueue b s).chans = s.chans ∧ (enqueue b s).marks = s.marks ∧ (enqueue b s).roster = s.roster
     ∧ (enqueue b s).post = s.post ∧ (enqueue b s).frames = s.frames ∧ (enqueue b s).access = s.access
     ∧ (enqueue b s).sig = s.sig ∧ (enqueue b s).control = s.control ∧ (enqueue b s).world = s.world
     ∧ (enqueue b s).freeCount = s.freeCount
     ∧ (enqueue b s).stepFixed = s.stepFixed := by
  exact ⟨rfl, rfl, rfl, rfl, rfl, rfl, rfl, rfl, rfl, rfl, rfl, rfl, rfl, rfl⟩

/-- What queueReport leaves alone. -/
@[simp] theorem queueReport_frame (b : ReportBody) :
    (queueReport b s).pending = s.pending ∧ (queueReport b s).tb = s.tb ∧ (queueReport b s).cues = s.cues
     ∧ (queueReport b s).chans = s.chans ∧ (queueReport b s).marks = s.marks
     ∧ (queueReport b s).roster = s.roster ∧ (queueReport b s).post = s.post
     ∧ (queueReport b s).frames = s.frames ∧ (queueReport b s).access = s.access ∧ (queueReport b s).sig = s.sig
     ∧ (queueReport b s).control = s.control ∧ (queueReport b s).world = s.world
     ∧ (queueReport b s).freeCount = s.freeCount
     ∧ (queueReport b s).stepFixed = s.stepFixed := by
  unfold queueReport; split <;> simp

/-- What queueReports leaves alone. -/
@[simp] theorem queueReports_frame (bs : List ReportBody) :
    (queueReports bs s).pending = s.pending ∧ (queueReports bs s).tb = s.tb ∧ (queueReports bs s).cues = s.cues
     ∧ (queueReports bs s).chans = s.chans ∧ (queueReports bs s).marks = s.marks
     ∧ (queueReports bs s).roster = s.roster ∧ (queueReports bs s).post = s.post
     ∧ (queueReports bs s).frames = s.frames ∧ (queueReports bs s).access = s.access
     ∧ (queueReports bs s).sig = s.sig ∧ (queueReports bs s).control = s.control
     ∧ (queueReports bs s).world = s.world ∧ (queueReports bs s).freeCount = s.freeCount
     ∧ (queueReports bs s).stepFixed = s.stepFixed := by
  induction bs generalizing s with
  | nil => simp [queueReports]
  | cons b bs ih =>
    have h := ih (queueReport b s)
    simpa [queueReports] using h

/-- What setChan leaves alone. -/
@[simp] theorem setChan_frame (c : ChannelNo) (ch : Channel) :
    (setChan c ch s).pending = s.pending ∧ (setChan c ch s).tb = s.tb ∧ (setChan c ch s).cues = s.cues
     ∧ (setChan c ch s).marks = s.marks ∧ (setChan c ch s).roster = s.roster ∧ (setChan c ch s).post = s.post
     ∧ (setChan c ch s).frames = s.frames ∧ (setChan c ch s).access = s.access ∧ (setChan c ch s).sig = s.sig
     ∧ (setChan c ch s).control = s.control ∧ (setChan c ch s).port = s.port ∧ (setChan c ch s).world = s.world
     ∧ (setChan c ch s).freeCount = s.freeCount
     ∧ (setChan c ch s).stepFixed = s.stepFixed := by
  simp [setChan]

/-- What setPosting leaves alone. -/
@[simp] theorem setPosting_frame (p : Posting) :
    (setPosting p s).pending = s.pending ∧ (setPosting p s).tb = s.tb ∧ (setPosting p s).cues = s.cues
     ∧ (setPosting p s).chans = s.chans ∧ (setPosting p s).marks = s.marks ∧ (setPosting p s).roster = s.roster
     ∧ (setPosting p s).frames = s.frames ∧ (setPosting p s).access = s.access ∧ (setPosting p s).sig = s.sig
     ∧ (setPosting p s).control = s.control ∧ (setPosting p s).port = s.port ∧ (setPosting p s).world = s.world
     ∧ (setPosting p s).freeCount = s.freeCount
     ∧ (setPosting p s).stepFixed = s.stepFixed := by
  simp [setPosting]

/-- What setPeer leaves alone. -/
@[simp] theorem setPeer_frame (p : StationNo) (e : Peer) :
    (setPeer p e s).pending = s.pending ∧ (setPeer p e s).tb = s.tb ∧ (setPeer p e s).cues = s.cues
     ∧ (setPeer p e s).chans = s.chans ∧ (setPeer p e s).marks = s.marks ∧ (setPeer p e s).post = s.post
     ∧ (setPeer p e s).frames = s.frames ∧ (setPeer p e s).access = s.access ∧ (setPeer p e s).sig = s.sig
     ∧ (setPeer p e s).control = s.control ∧ (setPeer p e s).port = s.port ∧ (setPeer p e s).world = s.world
     ∧ (setPeer p e s).freeCount = s.freeCount
     ∧ (setPeer p e s).stepFixed = s.stepFixed := by
  unfold setPeer; split <;> simp

/-- Everything queueReport can do (R211): the report at the tail while the sum is below 48, or one loss. -/
theorem queueReport_spec (b : ReportBody) :
    (s.reportSum < reportCapacity ∧ queueReport b s = enqueue b s)
      ∨ (reportCapacity ≤ s.reportSum ∧ queueReport b s = s.onPort fun p => { p with lost := satInc p.lost }) := by
  unfold queueReport
  split <;> simp_all

/-- The queue after a report is put at its tail. -/
@[simp] theorem enqueue_queue (b : ReportBody) :
    (enqueue b s).port.queue = s.port.queue ++ [{ lostBefore := s.port.lost, body := b }] := rfl

/-- Queueing a report never takes the sum above 48 (R211, Law 3). -/
theorem queueReport_sum (b : ReportBody) (h : s.reportSum ≤ 48) : (queueReport b s).reportSum ≤ 48 := by
  rcases queueReport_spec s b with ⟨hlt, he⟩ | ⟨_, he⟩
  · rw [he]
    simp only [State.reportSum, enqueue_queue, enqueue_frame, List.length_append, List.length_singleton] at hlt ⊢
    unfold reportCapacity at hlt
    omega
  · rw [he]
    simpa [State.reportSum] using h

/-- Queueing several reports never takes the sum above 48. -/
theorem queueReports_sum (bs : List ReportBody) (h : s.reportSum ≤ 48) : (queueReports bs s).reportSum ≤ 48 := by
  induction bs generalizing s with
  | nil => simpa [queueReports] using h
  | cons b bs ih => exact ih (queueReport b s) (queueReport_sum s b h)

end Sys2Proof.Machine
end

