-- ==== Sys2Proof/Laws/Blocks.lean ====
section
/-! SUPPORT. What the operations of the posting unit, the channels and the cue table leave alone. -/

namespace Sys2Proof.Machine

variable (s : State)

/-- What finishPosting leaves alone. -/
@[simp] theorem finishPosting_frame (id : Byte) (o : PostOutcome) :
    (finishPosting id o s).pending = s.pending ∧ (finishPosting id o s).tb = s.tb
     ∧ (finishPosting id o s).cues = s.cues ∧ (finishPosting id o s).chans = s.chans
     ∧ (finishPosting id o s).marks = s.marks ∧ (finishPosting id o s).roster = s.roster
     ∧ (finishPosting id o s).frames = s.frames ∧ (finishPosting id o s).sig = s.sig
     ∧ (finishPosting id o s).control = s.control ∧ (finishPosting id o s).world = s.world
     ∧ (finishPosting id o s).freeCount = s.freeCount
     ∧ (finishPosting id o s).stepFixed = s.stepFixed := by
  unfold finishPosting; split <;> simp

/-- What completionTest leaves alone. -/
@[simp] theorem completionTest_frame (id : Byte) :
    (completionTest id s).pending = s.pending ∧ (completionTest id s).tb = s.tb
     ∧ (completionTest id s).cues = s.cues ∧ (completionTest id s).chans = s.chans
     ∧ (completionTest id s).marks = s.marks ∧ (completionTest id s).roster = s.roster
     ∧ (completionTest id s).frames = s.frames ∧ (completionTest id s).sig = s.sig
     ∧ (completionTest id s).control = s.control ∧ (completionTest id s).world = s.world
     ∧ (completionTest id s).freeCount = s.freeCount
     ∧ (completionTest id s).stepFixed = s.stepFixed := by
  unfold completionTest; split <;> (try split) <;> simp

/-- What absentAtPosting leaves alone. -/
@[simp] theorem absentAtPosting_frame (p : StationNo) (id : Byte) :
    (absentAtPosting p id s).pending = s.pending ∧ (absentAtPosting p id s).tb = s.tb
     ∧ (absentAtPosting p id s).cues = s.cues ∧ (absentAtPosting p id s).chans = s.chans
     ∧ (absentAtPosting p id s).marks = s.marks ∧ (absentAtPosting p id s).roster = s.roster
     ∧ (absentAtPosting p id s).frames = s.frames ∧ (absentAtPosting p id s).sig = s.sig
     ∧ (absentAtPosting p id s).control = s.control ∧ (absentAtPosting p id s).world = s.world
     ∧ (absentAtPosting p id s).freeCount = s.freeCount
     ∧ (absentAtPosting p id s).stepFixed = s.stepFixed := by
  unfold absentAtPosting; split <;> simp

/-- A field that a step of a fold keeps is kept by the fold. -/
theorem foldl_keeps {α β : Type} (g : State → β) (f : State → α → State) (l : List α)
    (h : ∀ s x, g (f s x) = g s) : g (l.foldl f s) = g s := by
  induction l generalizing s with
  | nil => rfl
  | cons x xs ih => rw [List.foldl_cons, ih, h]

/-- A property that a step of a fold keeps is kept by the fold. -/
theorem foldl_inv {α : Type} (P : State → Prop) (f : State → α → State) (l : List α)
    (h : ∀ s x, x ∈ l → P s → P (f s x)) (hs : P s) : P (l.foldl f s) := by
  induction l generalizing s with
  | nil => exact hs
  | cons x xs ih =>
    exact ih (f s x) (fun s y hy => h s y (List.mem_cons_of_mem _ hy)) (h s x List.mem_cons_self hs)

/-- What absentNotice leaves alone. -/
@[simp] theorem absentNotice_frame (p : StationNo) :
    (absentNotice p s).pending = s.pending ∧ (absentNotice p s).tb = s.tb ∧ (absentNotice p s).cues = s.cues
     ∧ (absentNotice p s).chans = s.chans ∧ (absentNotice p s).marks = s.marks
     ∧ (absentNotice p s).roster = s.roster ∧ (absentNotice p s).frames = s.frames
     ∧ (absentNotice p s).sig = s.sig ∧ (absentNotice p s).control = s.control
     ∧ (absentNotice p s).world = s.world ∧ (absentNotice p s).freeCount = s.freeCount
     ∧ (absentNotice p s).stepFixed = s.stepFixed := by
  unfold absentNotice; refine ⟨?_, ?_, ?_, ?_, ?_, ?_, ?_, ?_, ?_, ?_, ?_, ?_⟩ <;> exact foldl_keeps s _ _ _ (by intro s x; simp)

/-- What abandonPostings leaves alone. -/
@[simp] theorem abandonPostings_frame  :
    (abandonPostings s).pending = s.pending ∧ (abandonPostings s).tb = s.tb ∧ (abandonPostings s).cues = s.cues
     ∧ (abandonPostings s).chans = s.chans ∧ (abandonPostings s).marks = s.marks
     ∧ (abandonPostings s).roster = s.roster ∧ (abandonPostings s).frames = s.frames
     ∧ (abandonPostings s).sig = s.sig ∧ (abandonPostings s).control = s.control
     ∧ (abandonPostings s).world = s.world ∧ (abandonPostings s).freeCount = s.freeCount
     ∧ (abandonPostings s).stepFixed = s.stepFixed := by
  unfold abandonPostings; refine ⟨?_, ?_, ?_, ?_, ?_, ?_, ?_, ?_, ?_, ?_, ?_, ?_⟩ <;> exact foldl_keeps s _ _ _ (by intro s x; simp)

/-- What takeReceipt leaves alone. -/
@[simp] theorem takeReceipt_frame (p : StationNo) (r : Receipt) :
    (takeReceipt p r s).pending = s.pending ∧ (takeReceipt p r s).tb = s.tb ∧ (takeReceipt p r s).cues = s.cues
     ∧ (takeReceipt p r s).chans = s.chans ∧ (takeReceipt p r s).marks = s.marks
     ∧ (takeReceipt p r s).roster = s.roster ∧ (takeReceipt p r s).frames = s.frames
     ∧ (takeReceipt p r s).sig = s.sig ∧ (takeReceipt p r s).control = s.control
     ∧ (takeReceipt p r s).world = s.world ∧ (takeReceipt p r s).freeCount = s.freeCount
     ∧ (takeReceipt p r s).stepFixed = s.stepFixed := by
  unfold takeReceipt; split <;> (try split) <;> (try split) <;> simp

/-- What takeReceipts leaves alone. -/
@[simp] theorem takeReceipts_frame (p : StationNo) (rs : List Receipt) :
    (takeReceipts p rs s).pending = s.pending ∧ (takeReceipts p rs s).tb = s.tb
     ∧ (takeReceipts p rs s).cues = s.cues ∧ (takeReceipts p rs s).chans = s.chans
     ∧ (takeReceipts p rs s).marks = s.marks ∧ (takeReceipts p rs s).roster = s.roster
     ∧ (takeReceipts p rs s).frames = s.frames ∧ (takeReceipts p rs s).sig = s.sig
     ∧ (takeReceipts p rs s).control = s.control ∧ (takeReceipts p rs s).world = s.world
     ∧ (takeReceipts p rs s).freeCount = s.freeCount
     ∧ (takeReceipts p rs s).stepFixed = s.stepFixed := by
  unfold takeReceipts; refine ⟨?_, ?_, ?_, ?_, ?_, ?_, ?_, ?_, ?_, ?_, ?_, ?_⟩ <;> exact foldl_keeps s _ _ _ (by intro s x; simp)

/-- What sentNotice leaves alone. -/
@[simp] theorem sentNotice_frame (id : Byte) :
    (sentNotice id s).pending = s.pending ∧ (sentNotice id s).tb = s.tb ∧ (sentNotice id s).cues = s.cues
     ∧ (sentNotice id s).chans = s.chans ∧ (sentNotice id s).marks = s.marks
     ∧ (sentNotice id s).roster = s.roster ∧ (sentNotice id s).frames = s.frames ∧ (sentNotice id s).sig = s.sig
     ∧ (sentNotice id s).control = s.control ∧ (sentNotice id s).world = s.world
     ∧ (sentNotice id s).freeCount = s.freeCount
     ∧ (sentNotice id s).stepFixed = s.stepFixed := by
  unfold sentNotice; split <;> simp

/-- What expireWindow leaves alone. -/
@[simp] theorem expireWindow_frame (id : Byte) :
    (expireWindow id s).pending = s.pending ∧ (expireWindow id s).tb = s.tb ∧ (expireWindow id s).cues = s.cues
     ∧ (expireWindow id s).chans = s.chans ∧ (expireWindow id s).marks = s.marks
     ∧ (expireWindow id s).roster = s.roster ∧ (expireWindow id s).frames = s.frames
     ∧ (expireWindow id s).sig = s.sig ∧ (expireWindow id s).control = s.control
     ∧ (expireWindow id s).world = s.world ∧ (expireWindow id s).freeCount = s.freeCount
     ∧ (expireWindow id s).stepFixed = s.stepFixed := by
  unfold expireWindow; split <;> (try split) <;> (try split) <;> simp

/-- What passDeadline leaves alone. -/
@[simp] theorem passDeadline_frame (id : Byte) :
    (passDeadline id s).pending = s.pending ∧ (passDeadline id s).tb = s.tb ∧ (passDeadline id s).cues = s.cues
     ∧ (passDeadline id s).chans = s.chans ∧ (passDeadline id s).marks = s.marks
     ∧ (passDeadline id s).roster = s.roster ∧ (passDeadline id s).frames = s.frames
     ∧ (passDeadline id s).sig = s.sig ∧ (passDeadline id s).control = s.control
     ∧ (passDeadline id s).world = s.world ∧ (passDeadline id s).freeCount = s.freeCount
     ∧ (passDeadline id s).stepFixed = s.stepFixed := by
  unfold passDeadline; split <;> (try split) <;> simp

/-- What fireAtChannel leaves alone. -/
@[simp] theorem fireAtChannel_frame (c : ChannelNo) (a : HeldAction) (k : CueKey) (r : Bool) (t : Option Time)
    (fired : List ReportBody) :
    (fireAtChannel c a k r t fired s).pending = s.pending ∧ (fireAtChannel c a k r t fired s).tb = s.tb
     ∧ (fireAtChannel c a k r t fired s).cues = s.cues ∧ (fireAtChannel c a k r t fired s).marks = s.marks
     ∧ (fireAtChannel c a k r t fired s).roster = s.roster ∧ (fireAtChannel c a k r t fired s).post = s.post
     ∧ (fireAtChannel c a k r t fired s).frames = s.frames ∧ (fireAtChannel c a k r t fired s).access = s.access
     ∧ (fireAtChannel c a k r t fired s).sig = s.sig ∧ (fireAtChannel c a k r t fired s).control = s.control
     ∧ (fireAtChannel c a k r t fired s).world = s.world
     ∧ (fireAtChannel c a k r t fired s).freeCount = s.freeCount := by
  unfold fireAtChannel; split <;> simp

/-- What takeReachedEdge leaves alone. -/
@[simp] theorem takeReachedEdge_frame (c : ChannelNo) :
    (takeReachedEdge c s).pending = s.pending ∧ (takeReachedEdge c s).tb = s.tb
     ∧ (takeReachedEdge c s).cues = s.cues ∧ (takeReachedEdge c s).marks = s.marks
     ∧ (takeReachedEdge c s).roster = s.roster ∧ (takeReachedEdge c s).post = s.post
     ∧ (takeReachedEdge c s).frames = s.frames ∧ (takeReachedEdge c s).access = s.access
     ∧ (takeReachedEdge c s).sig = s.sig ∧ (takeReachedEdge c s).control = s.control
     ∧ (takeReachedEdge c s).port = s.port ∧ (takeReachedEdge c s).world = s.world
     ∧ (takeReachedEdge c s).freeCount = s.freeCount
     ∧ (takeReachedEdge c s).stepFixed = s.stepFixed := by
  unfold takeReachedEdge; split <;> (try split) <;> simp

/-- What watchEdges leaves alone. -/
@[simp] theorem watchEdges_frame (c : ChannelNo) :
    (watchEdges c s).pending = s.pending ∧ (watchEdges c s).tb = s.tb ∧ (watchEdges c s).cues = s.cues
     ∧ (watchEdges c s).marks = s.marks ∧ (watchEdges c s).roster = s.roster ∧ (watchEdges c s).post = s.post
     ∧ (watchEdges c s).frames = s.frames ∧ (watchEdges c s).access = s.access ∧ (watchEdges c s).sig = s.sig
     ∧ (watchEdges c s).control = s.control ∧ (watchEdges c s).port = s.port ∧ (watchEdges c s).world = s.world
     ∧ (watchEdges c s).freeCount = s.freeCount
     ∧ (watchEdges c s).stepFixed = s.stepFixed := by
  simp [watchEdges]

/-- What noticeAtChannel leaves alone. -/
@[simp] theorem noticeAtChannel_frame (t u : Time) (n : Nat) (c : ChannelNo) :
    (noticeAtChannel t u n s c).pending = s.pending ∧ (noticeAtChannel t u n s c).tb = s.tb
     ∧ (noticeAtChannel t u n s c).cues = s.cues ∧ (noticeAtChannel t u n s c).marks = s.marks
     ∧ (noticeAtChannel t u n s c).roster = s.roster ∧ (noticeAtChannel t u n s c).post = s.post
     ∧ (noticeAtChannel t u n s c).frames = s.frames ∧ (noticeAtChannel t u n s c).access = s.access
     ∧ (noticeAtChannel t u n s c).sig = s.sig ∧ (noticeAtChannel t u n s c).control = s.control
     ∧ (noticeAtChannel t u n s c).world = s.world ∧ (noticeAtChannel t u n s c).freeCount = s.freeCount
     ∧ (noticeAtChannel t u n s c).stepFixed = s.stepFixed := by
  unfold noticeAtChannel; split <;> (try split) <;> (try split) <;> simp

/-- What fireCue leaves alone. -/
@[simp] theorem fireCue_frame (k : CueKey) (c : ChannelNo) (a : HeldAction) (r : Bool) (p : InstallPath) (n : Option Count16)
    (t : Option Time) (l : Bool) :
    (fireCue k c a r p n t l s).pending = s.pending ∧ (fireCue k c a r p n t l s).tb = s.tb
     ∧ (fireCue k c a r p n t l s).marks = s.marks ∧ (fireCue k c a r p n t l s).roster = s.roster
     ∧ (fireCue k c a r p n t l s).post = s.post ∧ (fireCue k c a r p n t l s).frames = s.frames
     ∧ (fireCue k c a r p n t l s).access = s.access ∧ (fireCue k c a r p n t l s).sig = s.sig
     ∧ (fireCue k c a r p n t l s).control = s.control ∧ (fireCue k c a r p n t l s).world = s.world
     ∧ (fireCue k c a r p n t l s).freeCount = s.freeCount := by
  simp [fireCue]

/-- What fireEntry leaves alone. -/
@[simp] theorem fireEntry_frame (l : Bool) (e : HeldEntry) :
    (fireEntry l s e).pending = s.pending ∧ (fireEntry l s e).tb = s.tb ∧ (fireEntry l s e).marks = s.marks
     ∧ (fireEntry l s e).roster = s.roster ∧ (fireEntry l s e).post = s.post
     ∧ (fireEntry l s e).frames = s.frames ∧ (fireEntry l s e).access = s.access ∧ (fireEntry l s e).sig = s.sig
     ∧ (fireEntry l s e).control = s.control ∧ (fireEntry l s e).world = s.world
     ∧ (fireEntry l s e).freeCount = s.freeCount := by
  simp [fireEntry]

/-- What fireDue leaves alone. -/
@[simp] theorem fireDue_frame  :
    (fireDue s).pending = s.pending ∧ (fireDue s).tb = s.tb ∧ (fireDue s).marks = s.marks
     ∧ (fireDue s).roster = s.roster ∧ (fireDue s).post = s.post ∧ (fireDue s).frames = s.frames
     ∧ (fireDue s).access = s.access ∧ (fireDue s).sig = s.sig ∧ (fireDue s).control = s.control
     ∧ (fireDue s).world = s.world ∧ (fireDue s).freeCount = s.freeCount := by
  unfold fireDue; split
  · refine ⟨?_, ?_, ?_, ?_, ?_, ?_, ?_, ?_, ?_, ?_, ?_⟩ <;> exact foldl_keeps s _ _ _ (by intro s x; simp)
  · simp

/-- What takeSteppedEdge leaves alone. -/
@[simp] theorem takeSteppedEdge_frame (c : ChannelNo) :
    (takeSteppedEdge s c).pending = s.pending ∧ (takeSteppedEdge s c).tb = s.tb ∧ (takeSteppedEdge s c).cues = s.cues
     ∧ (takeSteppedEdge s c).marks = s.marks ∧ (takeSteppedEdge s c).roster = s.roster
     ∧ (takeSteppedEdge s c).post = s.post ∧ (takeSteppedEdge s c).frames = s.frames
     ∧ (takeSteppedEdge s c).access = s.access ∧ (takeSteppedEdge s c).sig = s.sig
     ∧ (takeSteppedEdge s c).control = s.control ∧ (takeSteppedEdge s c).port = s.port
     ∧ (takeSteppedEdge s c).world = s.world ∧ (takeSteppedEdge s c).freeCount = s.freeCount
     ∧ (takeSteppedEdge s c).stepFixed = s.stepFixed := by
  unfold takeSteppedEdge; split <;> (try split) <;> simp

/-- What settleStepped leaves alone. -/
@[simp] theorem settleStepped_frame :
    (settleStepped s).pending = s.pending ∧ (settleStepped s).tb = s.tb ∧ (settleStepped s).marks = s.marks
     ∧ (settleStepped s).roster = s.roster ∧ (settleStepped s).post = s.post ∧ (settleStepped s).frames = s.frames
     ∧ (settleStepped s).access = s.access ∧ (settleStepped s).sig = s.sig ∧ (settleStepped s).control = s.control
     ∧ (settleStepped s).world = s.world ∧ (settleStepped s).freeCount = s.freeCount := by
  unfold settleStepped; simp only []; split <;> (try simp only [fireDue_frame]) <;>
    refine ⟨?_, ?_, ?_, ?_, ?_, ?_, ?_, ?_, ?_, ?_, ?_⟩ <;> exact foldl_keeps s _ _ _ (by intro s x; simp)

/-- With nothing stepped over there is nothing to settle. -/
theorem settleStepped_none (h : s.tb.stepped = none) : settleStepped s = s := by
  have hs : ∀ u : State, u.tb.stepped = none → ∀ c, takeSteppedEdge u c = u := by
    intro u hu c
    unfold takeSteppedEdge
    split
    · rename_i o _
      cases o.nextTime <;> simp [State.steppedOver, hu]
    · rfl
    · rfl
  have hf : channelNumbers.foldl takeSteppedEdge s = s :=
    foldl_inv s (fun u => u = s) _ _ (fun u c _ hu => by rw [hu, hs s h]) rfl
  unfold settleStepped
  rw [hf]
  simp [State.steppedOver, h]

/-- What fireJumped leaves alone. -/
@[simp] theorem fireJumped_frame (t u : Time) (n : Nat) :
    (fireJumped t u n s).pending = s.pending ∧ (fireJumped t u n s).tb = s.tb
     ∧ (fireJumped t u n s).marks = s.marks ∧ (fireJumped t u n s).roster = s.roster
     ∧ (fireJumped t u n s).post = s.post ∧ (fireJumped t u n s).frames = s.frames
     ∧ (fireJumped t u n s).access = s.access ∧ (fireJumped t u n s).sig = s.sig
     ∧ (fireJumped t u n s).control = s.control ∧ (fireJumped t u n s).world = s.world
     ∧ (fireJumped t u n s).freeCount = s.freeCount := by
  unfold fireJumped; refine ⟨?_, ?_, ?_, ?_, ?_, ?_, ?_, ?_, ?_, ?_, ?_⟩ <;> exact foldl_keeps s _ _ _ (by intro s x; simp)

/-- What noticeChannels leaves alone. -/
@[simp] theorem noticeChannels_frame (w : ChannelNo → Bool) (t u : Time) (n : Nat) :
    (noticeChannels w t u n s).pending = s.pending ∧ (noticeChannels w t u n s).tb = s.tb
     ∧ (noticeChannels w t u n s).cues = s.cues ∧ (noticeChannels w t u n s).marks = s.marks
     ∧ (noticeChannels w t u n s).roster = s.roster ∧ (noticeChannels w t u n s).post = s.post
     ∧ (noticeChannels w t u n s).frames = s.frames ∧ (noticeChannels w t u n s).access = s.access
     ∧ (noticeChannels w t u n s).sig = s.sig ∧ (noticeChannels w t u n s).control = s.control
     ∧ (noticeChannels w t u n s).world = s.world ∧ (noticeChannels w t u n s).freeCount = s.freeCount
     ∧ (noticeChannels w t u n s).stepFixed = s.stepFixed := by
  unfold noticeChannels; refine ⟨?_, ?_, ?_, ?_, ?_, ?_, ?_, ?_, ?_, ?_, ?_, ?_, ?_⟩ <;> exact foldl_keeps s _ _ _ (by intro s x; simp)

/-- What appendReceipt leaves alone. -/
@[simp] theorem appendReceipt_frame (k : CueKey) (v : Verdict) :
    (appendReceipt k v s).pending = s.pending ∧ (appendReceipt k v s).tb = s.tb
     ∧ (appendReceipt k v s).cues = s.cues ∧ (appendReceipt k v s).chans = s.chans
     ∧ (appendReceipt k v s).marks = s.marks ∧ (appendReceipt k v s).roster = s.roster
     ∧ (appendReceipt k v s).frames = s.frames ∧ (appendReceipt k v s).sig = s.sig
     ∧ (appendReceipt k v s).control = s.control ∧ (appendReceipt k v s).port = s.port
     ∧ (appendReceipt k v s).world = s.world ∧ (appendReceipt k v s).freeCount = s.freeCount
     ∧ (appendReceipt k v s).stepFixed = s.stepFixed := by
  unfold appendReceipt; split <;> simp

/-- What settleHeld leaves alone. -/
@[simp] theorem settleHeld_frame (p : InstallPath) (k : CueKey) (r : CueSpec) (a : HeldAction) :
    (settleHeld p k r a s).pending = s.pending ∧ (settleHeld p k r a s).tb = s.tb
     ∧ (settleHeld p k r a s).marks = s.marks ∧ (settleHeld p k r a s).roster = s.roster
     ∧ (settleHeld p k r a s).post = s.post ∧ (settleHeld p k r a s).frames = s.frames
     ∧ (settleHeld p k r a s).access = s.access ∧ (settleHeld p k r a s).sig = s.sig
     ∧ (settleHeld p k r a s).control = s.control ∧ (settleHeld p k r a s).world = s.world
     ∧ (settleHeld p k r a s).freeCount = s.freeCount := by
  unfold settleHeld placeHeld; split <;> (try split) <;> simp

/-- What settleRecord leaves alone. -/
@[simp] theorem settleRecord_frame (p : InstallPath) (o : StationNo) (r : CueRecord) :
    (settleRecord p o r s).pending = s.pending ∧ (settleRecord p o r s).tb = s.tb
     ∧ (settleRecord p o r s).marks = s.marks ∧ (settleRecord p o r s).roster = s.roster
     ∧ (settleRecord p o r s).post = s.post ∧ (settleRecord p o r s).frames = s.frames
     ∧ (settleRecord p o r s).access = s.access ∧ (settleRecord p o r s).sig = s.sig
     ∧ (settleRecord p o r s).control = s.control ∧ (settleRecord p o r s).world = s.world
     ∧ (settleRecord p o r s).freeCount = s.freeCount := by
  unfold settleRecord; split <;> simp

/-- What takeLineRecord leaves alone. -/
@[simp] theorem takeLineRecord_frame (o : StationNo) (r : CueRecord) :
    (takeLineRecord o s r).pending = s.pending ∧ (takeLineRecord o s r).tb = s.tb
     ∧ (takeLineRecord o s r).marks = s.marks ∧ (takeLineRecord o s r).roster = s.roster
     ∧ (takeLineRecord o s r).frames = s.frames ∧ (takeLineRecord o s r).sig = s.sig
     ∧ (takeLineRecord o s r).control = s.control ∧ (takeLineRecord o s r).world = s.world
     ∧ (takeLineRecord o s r).freeCount = s.freeCount := by
  simp [takeLineRecord]

/-- What takeCues leaves alone. -/
@[simp] theorem takeCues_frame (o : StationNo) (rs : List CueRecord) :
    (takeCues o rs s).pending = s.pending ∧ (takeCues o rs s).tb = s.tb ∧ (takeCues o rs s).marks = s.marks
     ∧ (takeCues o rs s).roster = s.roster ∧ (takeCues o rs s).frames = s.frames ∧ (takeCues o rs s).sig = s.sig
     ∧ (takeCues o rs s).control = s.control ∧ (takeCues o rs s).world = s.world
     ∧ (takeCues o rs s).freeCount = s.freeCount := by
  unfold takeCues; refine ⟨?_, ?_, ?_, ?_, ?_, ?_, ?_, ?_, ?_⟩ <;> exact foldl_keeps s _ _ _ (by intro s x; simp)

/-- What installLocal leaves alone. -/
@[simp] theorem installLocal_frame (o : StationNo) (rs : List CueRecord) :
    ((installLocal o rs s).1).pending = s.pending ∧ ((installLocal o rs s).1).tb = s.tb
     ∧ ((installLocal o rs s).1).marks = s.marks ∧ ((installLocal o rs s).1).roster = s.roster
     ∧ ((installLocal o rs s).1).post = s.post ∧ ((installLocal o rs s).1).frames = s.frames
     ∧ ((installLocal o rs s).1).access = s.access ∧ ((installLocal o rs s).1).sig = s.sig
     ∧ ((installLocal o rs s).1).control = s.control ∧ ((installLocal o rs s).1).world = s.world
     ∧ ((installLocal o rs s).1).freeCount = s.freeCount := by
  induction rs generalizing s with
  | nil => simp [installLocal]
  | cons r rs ih => simpa [installLocal] using ih (settleRecord .localPort o r s)

/-- What settleSerial leaves alone. -/
@[simp] theorem settleSerial_frame (k : CueKey) :
    (settleSerial k s).pending = s.pending ∧ (settleSerial k s).tb = s.tb ∧ (settleSerial k s).chans = s.chans
     ∧ (settleSerial k s).marks = s.marks ∧ (settleSerial k s).roster = s.roster
     ∧ (settleSerial k s).post = s.post ∧ (settleSerial k s).frames = s.frames
     ∧ (settleSerial k s).access = s.access ∧ (settleSerial k s).sig = s.sig
     ∧ (settleSerial k s).control = s.control ∧ (settleSerial k s).port = s.port
     ∧ (settleSerial k s).world = s.world ∧ (settleSerial k s).freeCount = s.freeCount
     ∧ (settleSerial k s).stepFixed = s.stepFixed := by
  unfold settleSerial; split <;> simp

/-- What takeLineSerial leaves alone. -/
@[simp] theorem takeLineSerial_frame (o : StationNo) (v : Byte) :
    (takeLineSerial o s v).pending = s.pending ∧ (takeLineSerial o s v).tb = s.tb
     ∧ (takeLineSerial o s v).chans = s.chans ∧ (takeLineSerial o s v).marks = s.marks
     ∧ (takeLineSerial o s v).roster = s.roster ∧ (takeLineSerial o s v).frames = s.frames
     ∧ (takeLineSerial o s v).sig = s.sig ∧ (takeLineSerial o s v).control = s.control
     ∧ (takeLineSerial o s v).port = s.port ∧ (takeLineSerial o s v).world = s.world
     ∧ (takeLineSerial o s v).freeCount = s.freeCount
     ∧ (takeLineSerial o s v).stepFixed = s.stepFixed := by
  simp [takeLineSerial]

/-- What takeWithdrawals leaves alone. -/
@[simp] theorem takeWithdrawals_frame (o : StationNo) (vs : List Byte) :
    (takeWithdrawals o vs s).pending = s.pending ∧ (takeWithdrawals o vs s).tb = s.tb
     ∧ (takeWithdrawals o vs s).chans = s.chans ∧ (takeWithdrawals o vs s).marks = s.marks
     ∧ (takeWithdrawals o vs s).roster = s.roster ∧ (takeWithdrawals o vs s).frames = s.frames
     ∧ (takeWithdrawals o vs s).sig = s.sig ∧ (takeWithdrawals o vs s).control = s.control
     ∧ (takeWithdrawals o vs s).port = s.port ∧ (takeWithdrawals o vs s).world = s.world
     ∧ (takeWithdrawals o vs s).freeCount = s.freeCount
     ∧ (takeWithdrawals o vs s).stepFixed = s.stepFixed := by
  unfold takeWithdrawals; refine ⟨?_, ?_, ?_, ?_, ?_, ?_, ?_, ?_, ?_, ?_, ?_, ?_⟩ <;> exact foldl_keeps s _ _ _ (by intro s x; simp)

/-- What withdrawLocal leaves alone. -/
@[simp] theorem withdrawLocal_frame (o : StationNo) (vs : List Byte) :
    ((withdrawLocal o vs s).1).pending = s.pending ∧ ((withdrawLocal o vs s).1).tb = s.tb
     ∧ ((withdrawLocal o vs s).1).chans = s.chans ∧ ((withdrawLocal o vs s).1).marks = s.marks
     ∧ ((withdrawLocal o vs s).1).roster = s.roster ∧ ((withdrawLocal o vs s).1).post = s.post
     ∧ ((withdrawLocal o vs s).1).frames = s.frames ∧ ((withdrawLocal o vs s).1).access = s.access
     ∧ ((withdrawLocal o vs s).1).sig = s.sig ∧ ((withdrawLocal o vs s).1).control = s.control
     ∧ ((withdrawLocal o vs s).1).port = s.port ∧ ((withdrawLocal o vs s).1).world = s.world
     ∧ ((withdrawLocal o vs s).1).freeCount = s.freeCount
     ∧ ((withdrawLocal o vs s).1).stepFixed = s.stepFixed := by
  induction vs generalizing s with
  | nil => simp [withdrawLocal]
  | cons v vs ih => simpa [withdrawLocal] using ih (settleSerial { origin := o, serial := v } s)

end Sys2Proof.Machine
end

