-- ==== Sys2Proof/Laws/Control.lean ====
section
/-! SUPPORT. What the operations of the timebase, the roster, station control and the marks leave alone. -/

namespace Sys2Proof.Machine

variable (s : State)

/-- What slewStep leaves alone. -/
@[simp] theorem slewStep_frame  :
    (slewStep s).pending = s.pending ∧ (slewStep s).cues = s.cues ∧ (slewStep s).chans = s.chans
     ∧ (slewStep s).marks = s.marks ∧ (slewStep s).roster = s.roster ∧ (slewStep s).post = s.post
     ∧ (slewStep s).frames = s.frames ∧ (slewStep s).access = s.access ∧ (slewStep s).sig = s.sig
     ∧ (slewStep s).control = s.control ∧ (slewStep s).port = s.port ∧ (slewStep s).world = s.world
     ∧ (slewStep s).freeCount = s.freeCount
     ∧ (slewStep s).stepFixed = s.stepFixed := by
  unfold slewStep; split <;> simp

/-- What takeSample leaves alone. -/
@[simp] theorem takeSample_frame (p : StationNo) (b : BeatBody) (a : ArrivalStamp) :
    (takeSample p b a s).pending = s.pending ∧ (takeSample p b a s).cues = s.cues
     ∧ (takeSample p b a s).chans = s.chans ∧ (takeSample p b a s).marks = s.marks
     ∧ (takeSample p b a s).roster = s.roster ∧ (takeSample p b a s).post = s.post
     ∧ (takeSample p b a s).frames = s.frames ∧ (takeSample p b a s).access = s.access
     ∧ (takeSample p b a s).sig = s.sig ∧ (takeSample p b a s).control = s.control
     ∧ (takeSample p b a s).port = s.port ∧ (takeSample p b a s).world = s.world
     ∧ (takeSample p b a s).freeCount = s.freeCount
     ∧ (takeSample p b a s).stepFixed = s.stepFixed := by
  unfold takeSample; split <;> (try split) <;> simp

/-- What jumpNotice leaves alone. -/
@[simp] theorem jumpNotice_frame (m : BitVec 8) (t u : Time) (c : Int) :
    (jumpNotice m t u c s).pending = s.pending ∧ (jumpNotice m t u c s).tb = s.tb
     ∧ (jumpNotice m t u c s).marks = s.marks ∧ (jumpNotice m t u c s).roster = s.roster
     ∧ (jumpNotice m t u c s).post = s.post ∧ (jumpNotice m t u c s).frames = s.frames
     ∧ (jumpNotice m t u c s).access = s.access ∧ (jumpNotice m t u c s).sig = s.sig
     ∧ (jumpNotice m t u c s).control = s.control ∧ (jumpNotice m t u c s).world = s.world
     ∧ (jumpNotice m t u c s).freeCount = s.freeCount := by
  unfold jumpNotice; split <;> simp

/-- What announce leaves alone. -/
@[simp] theorem announce_frame (o : ExpiryOrder) (cs : List ReportBody) (j : Bool) (t u : Time) (c : Int) :
    (announce o cs j t u c s).pending = s.pending ∧ (announce o cs j t u c s).tb = s.tb
     ∧ (announce o cs j t u c s).marks = s.marks ∧ (announce o cs j t u c s).roster = s.roster
     ∧ (announce o cs j t u c s).post = s.post ∧ (announce o cs j t u c s).frames = s.frames
     ∧ (announce o cs j t u c s).access = s.access ∧ (announce o cs j t u c s).sig = s.sig
     ∧ (announce o cs j t u c s).control = s.control ∧ (announce o cs j t u c s).world = s.world
     ∧ (announce o cs j t u c s).freeCount = s.freeCount := by
  unfold announce; split <;> (simp only []; split <;> simp)

/-- What evaluate leaves alone. -/
@[simp] theorem evaluate_frame (o : ExpiryOrder) :
    (evaluate o s).pending = s.pending ∧ (evaluate o s).marks = s.marks ∧ (evaluate o s).roster = s.roster
     ∧ (evaluate o s).post = s.post ∧ (evaluate o s).frames = s.frames ∧ (evaluate o s).access = s.access
     ∧ (evaluate o s).sig = s.sig ∧ (evaluate o s).control = s.control ∧ (evaluate o s).world = s.world
     ∧ (evaluate o s).freeCount = s.freeCount := by
  unfold evaluate; split <;> (try simp only []) <;> (try split) <;> simp

/-- What sequenceCheck leaves alone. -/
@[simp] theorem sequenceCheck_frame (p : StationNo) (q : Byte) :
    (sequenceCheck p q s).pending = s.pending ∧ (sequenceCheck p q s).tb = s.tb
     ∧ (sequenceCheck p q s).cues = s.cues ∧ (sequenceCheck p q s).chans = s.chans
     ∧ (sequenceCheck p q s).marks = s.marks ∧ (sequenceCheck p q s).post = s.post
     ∧ (sequenceCheck p q s).frames = s.frames ∧ (sequenceCheck p q s).access = s.access
     ∧ (sequenceCheck p q s).sig = s.sig ∧ (sequenceCheck p q s).control = s.control
     ∧ (sequenceCheck p q s).port = s.port ∧ (sequenceCheck p q s).world = s.world
     ∧ (sequenceCheck p q s).freeCount = s.freeCount
     ∧ (sequenceCheck p q s).stepFixed = s.stepFixed := by
  unfold sequenceCheck; split <;> simp

/-- What makeAbsent leaves alone. -/
@[simp] theorem makeAbsent_frame (p : StationNo) (e : Peer) (c : RosterCause) :
    (makeAbsent p e c s).pending = s.pending ∧ (makeAbsent p e c s).tb = s.tb
     ∧ (makeAbsent p e c s).cues = s.cues ∧ (makeAbsent p e c s).chans = s.chans
     ∧ (makeAbsent p e c s).marks = s.marks ∧ (makeAbsent p e c s).frames = s.frames
     ∧ (makeAbsent p e c s).sig = s.sig ∧ (makeAbsent p e c s).control = s.control
     ∧ (makeAbsent p e c s).world = s.world ∧ (makeAbsent p e c s).freeCount = s.freeCount
     ∧ (makeAbsent p e c s).stepFixed = s.stepFixed := by
  simp [makeAbsent]

/-- What matchingBeat leaves alone. -/
@[simp] theorem matchingBeat_frame (p : StationNo) (e : Peer) (b : BeatBody) (t : Time) :
    (matchingBeat p e b t s).pending = s.pending ∧ (matchingBeat p e b t s).tb = s.tb
     ∧ (matchingBeat p e b t s).cues = s.cues ∧ (matchingBeat p e b t s).chans = s.chans
     ∧ (matchingBeat p e b t s).marks = s.marks ∧ (matchingBeat p e b t s).frames = s.frames
     ∧ (matchingBeat p e b t s).sig = s.sig ∧ (matchingBeat p e b t s).control = s.control
     ∧ (matchingBeat p e b t s).world = s.world ∧ (matchingBeat p e b t s).freeCount = s.freeCount
     ∧ (matchingBeat p e b t s).stepFixed = s.stepFixed := by
  unfold matchingBeat; split <;> (try split) <;> simp

/-- What mismatchedBeat leaves alone. -/
@[simp] theorem mismatchedBeat_frame (p : StationNo) (e : Peer) (h o : Byte) :
    (mismatchedBeat p e h o s).pending = s.pending ∧ (mismatchedBeat p e h o s).tb = s.tb
     ∧ (mismatchedBeat p e h o s).cues = s.cues ∧ (mismatchedBeat p e h o s).chans = s.chans
     ∧ (mismatchedBeat p e h o s).marks = s.marks ∧ (mismatchedBeat p e h o s).post = s.post
     ∧ (mismatchedBeat p e h o s).frames = s.frames ∧ (mismatchedBeat p e h o s).access = s.access
     ∧ (mismatchedBeat p e h o s).sig = s.sig ∧ (mismatchedBeat p e h o s).control = s.control
     ∧ (mismatchedBeat p e h o s).world = s.world ∧ (mismatchedBeat p e h o s).freeCount = s.freeCount
     ∧ (mismatchedBeat p e h o s).stepFixed = s.stepFixed := by
  unfold mismatchedBeat; split <;> simp

/-- What rosterBeat leaves alone. -/
@[simp] theorem rosterBeat_frame (p : StationNo) (b : BeatBody) (t : Time) :
    (rosterBeat p b t s).pending = s.pending ∧ (rosterBeat p b t s).tb = s.tb
     ∧ (rosterBeat p b t s).cues = s.cues ∧ (rosterBeat p b t s).chans = s.chans
     ∧ (rosterBeat p b t s).marks = s.marks ∧ (rosterBeat p b t s).frames = s.frames
     ∧ (rosterBeat p b t s).sig = s.sig ∧ (rosterBeat p b t s).control = s.control
     ∧ (rosterBeat p b t s).world = s.world ∧ (rosterBeat p b t s).freeCount = s.freeCount
     ∧ (rosterBeat p b t s).stepFixed = s.stepFixed := by
  unfold rosterBeat; split <;> (try split) <;> (try split) <;> simp

/-- What sweepEntry leaves alone. -/
@[simp] theorem sweepEntry_frame (p : StationNo) :
    (sweepEntry s p).pending = s.pending ∧ (sweepEntry s p).tb = s.tb ∧ (sweepEntry s p).cues = s.cues
     ∧ (sweepEntry s p).chans = s.chans ∧ (sweepEntry s p).marks = s.marks ∧ (sweepEntry s p).frames = s.frames
     ∧ (sweepEntry s p).sig = s.sig ∧ (sweepEntry s p).control = s.control ∧ (sweepEntry s p).world = s.world
     ∧ (sweepEntry s p).freeCount = s.freeCount
     ∧ (sweepEntry s p).stepFixed = s.stepFixed := by
  unfold sweepEntry; split <;> (try split) <;> simp

/-- What sweep leaves alone. -/
@[simp] theorem sweep_frame  :
    (sweep s).pending = s.pending ∧ (sweep s).tb = s.tb ∧ (sweep s).cues = s.cues ∧ (sweep s).chans = s.chans
     ∧ (sweep s).marks = s.marks ∧ (sweep s).frames = s.frames ∧ (sweep s).sig = s.sig
     ∧ (sweep s).control = s.control ∧ (sweep s).world = s.world ∧ (sweep s).freeCount = s.freeCount
     ∧ (sweep s).stepFixed = s.stepFixed := by
  unfold sweep; refine ⟨?_, ?_, ?_, ?_, ?_, ?_, ?_, ?_, ?_, ?_, ?_⟩ <;> exact foldl_keeps s _ _ _ (by intro s x; simp)

/-- What setStation leaves alone. -/
@[simp] theorem setStation_frame (n : StationState) (c : Cause) :
    (setStation n c s).pending = s.pending ∧ (setStation n c s).tb = s.tb ∧ (setStation n c s).cues = s.cues
     ∧ (setStation n c s).chans = s.chans ∧ (setStation n c s).marks = s.marks
     ∧ (setStation n c s).roster = s.roster ∧ (setStation n c s).post = s.post
     ∧ (setStation n c s).frames = s.frames ∧ (setStation n c s).access = s.access
     ∧ (setStation n c s).sig = s.sig ∧ (setStation n c s).world = s.world
     ∧ (setStation n c s).freeCount = s.freeCount
     ∧ (setStation n c s).stepFixed = s.stepFixed := by
  simp [setStation]

/-- The station state after a change (R203). -/
@[simp] theorem setStation_control (n : StationState) (c : Cause) :
    (setStation n c s).control = { s.control with station := n, cause := some c } := by
  simp [setStation]

/-- What silence leaves alone. -/
@[simp] theorem silence_frame  :
    (silence s).pending = s.pending ∧ (silence s).tb = s.tb ∧ (silence s).cues = s.cues
     ∧ (silence s).chans = s.chans ∧ (silence s).roster = s.roster ∧ (silence s).frames = s.frames
     ∧ (silence s).sig = s.sig ∧ (silence s).control = s.control ∧ (silence s).world = s.world
     ∧ (silence s).freeCount = s.freeCount
     ∧ (silence s).stepFixed = s.stepFixed := by
  simp [silence]

/-- What enterMuted leaves alone. -/
@[simp] theorem enterMuted_frame  :
    (enterMuted s).pending = s.pending ∧ (enterMuted s).tb = s.tb ∧ (enterMuted s).cues = s.cues
     ∧ (enterMuted s).chans = s.chans ∧ (enterMuted s).roster = s.roster ∧ (enterMuted s).frames = s.frames
     ∧ (enterMuted s).sig = s.sig ∧ (enterMuted s).world = s.world ∧ (enterMuted s).freeCount = s.freeCount
     ∧ (enterMuted s).stepFixed = s.stepFixed := by
  unfold enterMuted; split <;> simp

/-- What clearForPrep leaves alone. -/
@[simp] theorem clearForPrep_frame  :
    (clearForPrep s).pending = s.pending ∧ (clearForPrep s).post = s.post ∧ (clearForPrep s).sig = s.sig
     ∧ (clearForPrep s).port = s.port ∧ (clearForPrep s).world = s.world
     ∧ (clearForPrep s).freeCount = s.freeCount
     ∧ (clearForPrep s).stepFixed = s.stepFixed := by
  simp [clearForPrep]

/-- What reachPrep leaves alone. -/
@[simp] theorem reachPrep_frame (c : Cause) :
    (reachPrep c s).pending = s.pending ∧ (reachPrep c s).post = s.post ∧ (reachPrep c s).sig = s.sig
     ∧ (reachPrep c s).world = s.world ∧ (reachPrep c s).freeCount = s.freeCount
     ∧ (reachPrep c s).stepFixed = s.stepFixed := by
  simp [reachPrep]

/-- What openStation leaves alone. -/
@[simp] theorem openStation_frame  :
    (openStation s).pending = s.pending ∧ (openStation s).cues = s.cues ∧ (openStation s).chans = s.chans
     ∧ (openStation s).marks = s.marks ∧ (openStation s).roster = s.roster ∧ (openStation s).post = s.post
     ∧ (openStation s).frames = s.frames ∧ (openStation s).sig = s.sig ∧ (openStation s).world = s.world
     ∧ (openStation s).freeCount = s.freeCount
     ∧ (openStation s).stepFixed = s.stepFixed := by
  simp [openStation]

/-- What beginClosing leaves alone. -/
@[simp] theorem beginClosing_frame  :
    (beginClosing s).pending = s.pending ∧ (beginClosing s).tb = s.tb ∧ (beginClosing s).cues = s.cues
     ∧ (beginClosing s).chans = s.chans ∧ (beginClosing s).marks = s.marks ∧ (beginClosing s).roster = s.roster
     ∧ (beginClosing s).frames = s.frames ∧ (beginClosing s).sig = s.sig ∧ (beginClosing s).world = s.world
     ∧ (beginClosing s).freeCount = s.freeCount
     ∧ (beginClosing s).stepFixed = s.stepFixed := by
  simp [beginClosing]

/-- What closeStation leaves alone. -/
@[simp] theorem closeStation_frame  :
    (closeStation s).pending = s.pending ∧ (closeStation s).sig = s.sig ∧ (closeStation s).world = s.world
     ∧ (closeStation s).freeCount = s.freeCount
     ∧ (closeStation s).stepFixed = s.stepFixed := by
  unfold closeStation; split <;> simp

/-- What unmuteStation leaves alone. -/
@[simp] theorem unmuteStation_frame  :
    (unmuteStation s).pending = s.pending ∧ (unmuteStation s).tb = s.tb ∧ (unmuteStation s).cues = s.cues
     ∧ (unmuteStation s).chans = s.chans ∧ (unmuteStation s).marks = s.marks
     ∧ (unmuteStation s).roster = s.roster ∧ (unmuteStation s).post = s.post
     ∧ (unmuteStation s).frames = s.frames ∧ (unmuteStation s).sig = s.sig ∧ (unmuteStation s).world = s.world
     ∧ (unmuteStation s).freeCount = s.freeCount
     ∧ (unmuteStation s).stepFixed = s.stepFixed := by
  unfold unmuteStation; split <;> simp

/-- What acceptConfig leaves alone. -/
@[simp] theorem acceptConfig_frame (c : ConfigRecord) :
    (acceptConfig c s).pending = s.pending ∧ (acceptConfig c s).tb = s.tb ∧ (acceptConfig c s).cues = s.cues
     ∧ (acceptConfig c s).marks = s.marks ∧ (acceptConfig c s).roster = s.roster
     ∧ (acceptConfig c s).post = s.post ∧ (acceptConfig c s).frames = s.frames
     ∧ (acceptConfig c s).access = s.access ∧ (acceptConfig c s).sig = s.sig
     ∧ (acceptConfig c s).world = s.world ∧ (acceptConfig c s).freeCount = s.freeCount
     ∧ (acceptConfig c s).stepFixed = s.stepFixed := by
  simp [acceptConfig]

/-- What setReference leaves alone. -/
@[simp] theorem setReference_frame (r : FrameEndRef) :
    (setReference r s).pending = s.pending ∧ (setReference r s).tb = s.tb ∧ (setReference r s).cues = s.cues
     ∧ (setReference r s).chans = s.chans ∧ (setReference r s).marks = s.marks
     ∧ (setReference r s).roster = s.roster ∧ (setReference r s).post = s.post
     ∧ (setReference r s).frames = s.frames ∧ (setReference r s).sig = s.sig
     ∧ (setReference r s).control = s.control ∧ (setReference r s).port = s.port
     ∧ (setReference r s).world = s.world ∧ (setReference r s).freeCount = s.freeCount
     ∧ (setReference r s).stepFixed = s.stepFixed := by
  simp [setReference]

/-- What endListen leaves alone. -/
@[simp] theorem endListen_frame  :
    (endListen s).pending = s.pending ∧ (endListen s).tb = s.tb ∧ (endListen s).cues = s.cues
     ∧ (endListen s).chans = s.chans ∧ (endListen s).marks = s.marks ∧ (endListen s).roster = s.roster
     ∧ (endListen s).post = s.post ∧ (endListen s).frames = s.frames ∧ (endListen s).sig = s.sig
     ∧ (endListen s).world = s.world ∧ (endListen s).freeCount = s.freeCount
     ∧ (endListen s).stepFixed = s.stepFixed := by
  unfold endListen; split <;> (try split) <;> simp

/-- What offerMark leaves alone. -/
@[simp] theorem offerMark_frame (t : Share) (m : MarkRecord) :
    (offerMark t m s).pending = s.pending ∧ (offerMark t m s).tb = s.tb ∧ (offerMark t m s).cues = s.cues
     ∧ (offerMark t m s).chans = s.chans ∧ (offerMark t m s).roster = s.roster ∧ (offerMark t m s).post = s.post
     ∧ (offerMark t m s).frames = s.frames ∧ (offerMark t m s).access = s.access ∧ (offerMark t m s).sig = s.sig
     ∧ (offerMark t m s).control = s.control ∧ (offerMark t m s).port = s.port
     ∧ (offerMark t m s).world = s.world ∧ (offerMark t m s).freeCount = s.freeCount
     ∧ (offerMark t m s).stepFixed = s.stepFixed := by
  unfold offerMark; split <;> (try split) <;> simp

/-- What reportMark leaves alone. -/
@[simp] theorem reportMark_frame (x : InputSettings) (m : MarkRecord) :
    (reportMark x m s).pending = s.pending ∧ (reportMark x m s).tb = s.tb ∧ (reportMark x m s).cues = s.cues
     ∧ (reportMark x m s).chans = s.chans ∧ (reportMark x m s).marks = s.marks
     ∧ (reportMark x m s).roster = s.roster ∧ (reportMark x m s).post = s.post
     ∧ (reportMark x m s).frames = s.frames ∧ (reportMark x m s).access = s.access
     ∧ (reportMark x m s).sig = s.sig ∧ (reportMark x m s).control = s.control
     ∧ (reportMark x m s).world = s.world ∧ (reportMark x m s).freeCount = s.freeCount
     ∧ (reportMark x m s).stepFixed = s.stepFixed := by
  unfold reportMark; split <;> simp

/-- What makeMark leaves alone. -/
@[simp] theorem makeMark_frame (c : ChannelNo) (x : InputSettings) (i : InputState) (r : Bool) :
    (makeMark c x i r s).pending = s.pending ∧ (makeMark c x i r s).tb = s.tb
     ∧ (makeMark c x i r s).cues = s.cues ∧ (makeMark c x i r s).roster = s.roster
     ∧ (makeMark c x i r s).post = s.post ∧ (makeMark c x i r s).frames = s.frames
     ∧ (makeMark c x i r s).access = s.access ∧ (makeMark c x i r s).sig = s.sig
     ∧ (makeMark c x i r s).control = s.control ∧ (makeMark c x i r s).world = s.world
     ∧ (makeMark c x i r s).freeCount = s.freeCount
     ∧ (makeMark c x i r s).stepFixed = s.stepFixed := by
  simp [makeMark]

/-- What matchingEdge leaves alone. -/
@[simp] theorem matchingEdge_frame (c : ChannelNo) (x : InputSettings) (i : InputState) (r : Bool) :
    (matchingEdge c x i r s).pending = s.pending ∧ (matchingEdge c x i r s).tb = s.tb
     ∧ (matchingEdge c x i r s).cues = s.cues ∧ (matchingEdge c x i r s).roster = s.roster
     ∧ (matchingEdge c x i r s).post = s.post ∧ (matchingEdge c x i r s).frames = s.frames
     ∧ (matchingEdge c x i r s).access = s.access ∧ (matchingEdge c x i r s).sig = s.sig
     ∧ (matchingEdge c x i r s).control = s.control ∧ (matchingEdge c x i r s).world = s.world
     ∧ (matchingEdge c x i r s).freeCount = s.freeCount
     ∧ (matchingEdge c x i r s).stepFixed = s.stepFixed := by
  unfold matchingEdge; split <;> simp

/-- What testEdge leaves alone. -/
@[simp] theorem testEdge_frame (c : ChannelNo) (i : InputState) (r : Bool) :
    (testEdge c i r s).pending = s.pending ∧ (testEdge c i r s).tb = s.tb ∧ (testEdge c i r s).cues = s.cues
     ∧ (testEdge c i r s).roster = s.roster ∧ (testEdge c i r s).post = s.post
     ∧ (testEdge c i r s).frames = s.frames ∧ (testEdge c i r s).access = s.access
     ∧ (testEdge c i r s).sig = s.sig ∧ (testEdge c i r s).control = s.control
     ∧ (testEdge c i r s).world = s.world ∧ (testEdge c i r s).freeCount = s.freeCount
     ∧ (testEdge c i r s).stepFixed = s.stepFixed := by
  unfold testEdge; split <;> (try split) <;> simp

/-- What inputEdge leaves alone. -/
@[simp] theorem inputEdge_frame (c : ChannelNo) (l : Bool) :
    (inputEdge c l s).pending = s.pending ∧ (inputEdge c l s).tb = s.tb ∧ (inputEdge c l s).cues = s.cues
     ∧ (inputEdge c l s).roster = s.roster ∧ (inputEdge c l s).post = s.post
     ∧ (inputEdge c l s).frames = s.frames ∧ (inputEdge c l s).access = s.access ∧ (inputEdge c l s).sig = s.sig
     ∧ (inputEdge c l s).control = s.control ∧ (inputEdge c l s).world = s.world
     ∧ (inputEdge c l s).freeCount = s.freeCount
     ∧ (inputEdge c l s).stepFixed = s.stepFixed := by
  unfold inputEdge; split <;> (try split) <;> simp

/-- What firstLevel leaves alone. -/
@[simp] theorem firstLevel_frame (c : ChannelNo) (l : Bool) :
    (firstLevel c l s).pending = s.pending ∧ (firstLevel c l s).tb = s.tb ∧ (firstLevel c l s).cues = s.cues
     ∧ (firstLevel c l s).marks = s.marks ∧ (firstLevel c l s).roster = s.roster
     ∧ (firstLevel c l s).post = s.post ∧ (firstLevel c l s).frames = s.frames
     ∧ (firstLevel c l s).access = s.access ∧ (firstLevel c l s).sig = s.sig
     ∧ (firstLevel c l s).control = s.control ∧ (firstLevel c l s).port = s.port
     ∧ (firstLevel c l s).world = s.world ∧ (firstLevel c l s).freeCount = s.freeCount
     ∧ (firstLevel c l s).stepFixed = s.stepFixed := by
  unfold firstLevel; split <;> (try split) <;> simp

/-- What takePeerMarks leaves alone. -/
@[simp] theorem takePeerMarks_frame (o : StationNo) (b : Byte) (ms : List MarkRecord) :
    (takePeerMarks o b ms s).pending = s.pending ∧ (takePeerMarks o b ms s).tb = s.tb
     ∧ (takePeerMarks o b ms s).cues = s.cues ∧ (takePeerMarks o b ms s).chans = s.chans
     ∧ (takePeerMarks o b ms s).marks = s.marks ∧ (takePeerMarks o b ms s).roster = s.roster
     ∧ (takePeerMarks o b ms s).post = s.post ∧ (takePeerMarks o b ms s).frames = s.frames
     ∧ (takePeerMarks o b ms s).access = s.access ∧ (takePeerMarks o b ms s).sig = s.sig
     ∧ (takePeerMarks o b ms s).control = s.control ∧ (takePeerMarks o b ms s).world = s.world
     ∧ (takePeerMarks o b ms s).freeCount = s.freeCount
     ∧ (takePeerMarks o b ms s).stepFixed = s.stepFixed := by
  simp [takePeerMarks]

end Sys2Proof.Machine
end

