-- ==== Sys2Proof/Laws/Cues.lean ====
section
/-! SUPPORT. What firing does to the cue table: the entries it removes and the keys it records. -/

namespace Sys2Proof.Machine

/-- A channel's action leaves the cue table alone. -/
theorem fireAtChannel_cues (c : ChannelNo) (a : HeldAction) (k : CueKey) (r : Bool) (t : Option Time)
    (fs : List ReportBody) (s : State) : (fireAtChannel c a k r t fs s).cues = s.cues := by
  unfold fireAtChannel; split <;> simp

/-- A held entry that fires leaves the table as FIRED, and nothing else in the table changes. -/
theorem fireEntry_cues (l : Bool) (s : State) (e : HeldEntry) :
    (fireEntry l s e).cues = s.cues.leave e.key .fired := by
  simp [fireEntry, fireCue, State.onCues]

/-- The same for several entries, one after another. -/
theorem fireEntries_cues (l : HeldEntry → Bool) : ∀ (es : List HeldEntry) (s : State),
    (es.foldl (fun s e => fireEntry (l e) s e) s).cues = es.foldl (fun c e => c.leave e.key .fired) s.cues
  | [], _ => rfl
  | e :: es, s => by simp only [List.foldl_cons]; rw [fireEntries_cues l es, fireEntry_cues]

/-- The entries left after several keys have left the table. -/
theorem leaveAll_held : ∀ (es : List HeldEntry) (t : CueTable),
    (es.foldl (fun c e => c.leave e.key .fired) t).held = t.held.filter (fun h => decide (h.key ∉ es.map HeldEntry.key))
    ∧ (es.foldl (fun c e => c.leave e.key .fired) t).installCount = t.installCount
  | [], t => by simp
  | e :: es, t => by
    simp only [List.foldl_cons]
    have := leaveAll_held es (t.leave e.key .fired)
    refine ⟨?_, this.2⟩
    rw [this.1]
    simp only [CueTable.leave, List.filter_filter]
    apply List.filter_congr
    intro x _
    by_cases h1 : x.key = e.key <;> by_cases h2 : x.key ∈ es.map HeldEntry.key <;> simp_all

/-- With keys all distinct, to lose the keys of a filtered part is to keep the rest. -/
theorem filter_keys_of_nodup (l : List HeldEntry) (hn : (l.map HeldEntry.key).Nodup) (p : HeldEntry → Bool) :
    l.filter (fun h => decide (h.key ∉ (l.filter p).map HeldEntry.key)) = l.filter (fun h => !p h) := by
  apply List.filter_congr
  intro x hx
  have inj : ∀ a ∈ l, a.key = x.key → a = x := fun a ha h => List.inj_on_of_nodup_map hn ha hx h
  cases hp : p x
  · simp; intro y hy hpy h; have := inj y hy h; subst this; simp_all
  · have : x.key ∈ (l.filter p).map HeldEntry.key := List.mem_map_of_mem (List.mem_filter.mpr ⟨hx, hp⟩)
    simp [this]

/-- A key that leaves is found in the recent-key list as it left. -/
theorem leftBy_leave (t : CueTable) (k : CueKey) (h : Departure) : (t.leave k h).leftBy k = some h := by
  simp only [CueTable.leftBy, CueTable.leave, addRecent, List.find?_append]
  rw [List.find?_eq_none.mpr]
  · simp
  · intro q hq; have := List.mem_of_mem_drop hq; simp at this ⊢; exact this.2

/-- Up to 32 distinct keys that leave in turn all stand at the young end of the recent-key list. -/
theorem leaveAll_recent : ∀ (es : List HeldEntry) (t : CueTable) (done : List HeldEntry) (old : List RecentKey),
    t.recent = old ++ done.map (fun e => ({ key := e.key, how := .fired } : RecentKey)) →
    (∀ r ∈ old, ∀ e ∈ done, r.key ≠ e.key) → ((done ++ es).map HeldEntry.key).Nodup → (done ++ es).length ≤ 32 →
    ∃ young, (es.foldl (fun c e => c.leave e.key .fired) t).recent
        = young ++ (done ++ es).map (fun e => ({ key := e.key, how := .fired } : RecentKey))
      ∧ (∀ r ∈ young, ∀ e ∈ done ++ es, r.key ≠ e.key)
  | [], t, done, old, h, h2, _, _ => ⟨old, by simpa using h, by simpa using h2⟩
  | e :: es, t, done, old, h, h2, hn, hl => by
    simp only [List.foldl_cons]
    have hn' : ((done ++ [e] ++ es).map HeldEntry.key).Nodup := by simpa using hn
    have he : ∀ d ∈ done, d.key ≠ e.key := by
      simp only [List.map_append, List.map_cons, List.nodup_append, List.mem_map, List.mem_cons] at hn
      intro d hd; exact hn.2.2 _ ⟨d, hd, rfl⟩ _ (Or.inl rfl)
    simp at hl
    have hf : (t.recent.filter fun r => r.key != e.key) = (old.filter fun r => r.key != e.key)
        ++ done.map (fun e => ({key := e.key, how := .fired} : RecentKey)) := by
      rw [h, List.filter_append]
      congr 1
      rw [List.filter_eq_self]; intro r hr; simp at hr; obtain ⟨d, hd, rfl⟩ := hr; simpa using he d hd
    have hrec : (t.leave e.key .fired).recent = ((old.filter fun r => r.key != e.key).drop
        (((old.filter fun r => r.key != e.key)
          ++ done.map (fun e => ({key := e.key, how := .fired} : RecentKey))).length + 1 - 32))
        ++ (done ++ [e]).map (fun e => ({key := e.key, how := .fired} : RecentKey)) := by
      simp only [CueTable.leave, addRecent, hf, recentCapacity]
      rw [List.drop_append]
      simp only [List.length_append, List.length_map]
      rw [show (List.filter (fun r => r.key != e.key) old).length + done.length + 1 - 32
          - (List.filter (fun r => r.key != e.key) old).length = 0 by omega]
      simp
    obtain ⟨old', h3, h4⟩ := leaveAll_recent es _ (done ++ [e]) _ hrec (by
      intro r hr d hd
      have hr' := List.mem_of_mem_drop hr
      simp at hr' hd
      rcases hd with hd | rfl
      · exact h2 r hr'.1 d hd
      · exact hr'.2) hn' (by simp; omega)
    exact ⟨old', by simpa using h3, by simpa using h4⟩


/-- A forward jump fires the entries it reaches, and only those. -/
theorem jumpNotice_cues (nf : BitVec 8) (before after : Time) (c : Int) (s : State) (hc : 0 < c)
    (hn : (s.cues.held.map HeldEntry.key).Nodup) :
    (jumpNotice nf before after c s).cues.held = s.cues.held.filter (fun h => decide (c < (ahead h.fire before : Int)))
      ∧ (jumpNotice nf before after c s).cues.installCount = s.cues.installCount := by
  simp only [jumpNotice, hc, if_true, noticeChannels_frame, fireJumped]
  rw [fireEntries_cues, (noticeChannels_frame _ _ _ _ _).2.2.1, (leaveAll_held _ _).1, (leaveAll_held _ _).2,
    filter_keys_of_nodup _ hn]
  refine ⟨?_, rfl⟩
  apply List.filter_congr; intro x _
  have : (ahead x.fire before ≤ c.toNat) ↔ ¬ (c < (ahead x.fire before : Int)) := by omega
  by_cases h : c < (ahead x.fire before : Int) <;> simp [this, h]

/-- The announcement of a forward jump: the entries it reaches fire, wherever the change report stands. -/
theorem announce_cues (o : ExpiryOrder) (cs : List ReportBody) (b a : Time) (c : Int) (s : State) (hc : 0 < c)
    (hn : (s.cues.held.map HeldEntry.key).Nodup) :
    (announce o cs true b a c s).cues.held = s.cues.held.filter (fun h => decide (c < (ahead h.fire b : Int)))
    ∧ (announce o cs true b a c s).cues.installCount = s.cues.installCount := by
  simp only [announce]
  split
  · have := jumpNotice_cues o.noticeFirst b a c (queueReports cs s) hc (by simpa using hn)
    simpa using this
  · have := jumpNotice_cues o.noticeFirst b a c s hc hn
    simpa using this

end Sys2Proof.Machine
end

