-- ==== Sys2Proof/Laws/Line.lean ====
section
/-! SUPPORT. What the operations of line access, the frame unit and the receiver leave alone. -/

namespace Sys2Proof.Machine

variable (s : State)

/-- What expiryAtAccess leaves alone. -/
@[simp] theorem expiryAtAccess_frame  :
    (expiryAtAccess s).pending = s.pending ∧ (expiryAtAccess s).tb = s.tb ∧ (expiryAtAccess s).cues = s.cues
     ∧ (expiryAtAccess s).chans = s.chans ∧ (expiryAtAccess s).marks = s.marks
     ∧ (expiryAtAccess s).roster = s.roster ∧ (expiryAtAccess s).post = s.post
     ∧ (expiryAtAccess s).frames = s.frames ∧ (expiryAtAccess s).sig = s.sig
     ∧ (expiryAtAccess s).control = s.control ∧ (expiryAtAccess s).port = s.port
     ∧ (expiryAtAccess s).world = s.world ∧ (expiryAtAccess s).freeCount = s.freeCount
     ∧ (expiryAtAccess s).stepFixed = s.stepFixed := by
  unfold expiryAtAccess; split <;> simp

/-- What nextPeriod leaves alone. -/
@[simp] theorem nextPeriod_frame  :
    (nextPeriod s).pending = s.pending ∧ (nextPeriod s).cues = s.cues ∧ (nextPeriod s).chans = s.chans
     ∧ (nextPeriod s).marks = s.marks ∧ (nextPeriod s).roster = s.roster ∧ (nextPeriod s).post = s.post
     ∧ (nextPeriod s).frames = s.frames ∧ (nextPeriod s).access = s.access ∧ (nextPeriod s).sig = s.sig
     ∧ (nextPeriod s).control = s.control ∧ (nextPeriod s).port = s.port ∧ (nextPeriod s).world = s.world
     ∧ (nextPeriod s).freeCount = s.freeCount
     ∧ (nextPeriod s).stepFixed = s.stepFixed := by
  simp [nextPeriod]

/-- What sweepAndEvaluate leaves alone. -/
@[simp] theorem sweepAndEvaluate_frame (o : ExpiryOrder) :
    (sweepAndEvaluate o s).pending = s.pending ∧ (sweepAndEvaluate o s).marks = s.marks
     ∧ (sweepAndEvaluate o s).frames = s.frames ∧ (sweepAndEvaluate o s).sig = s.sig
     ∧ (sweepAndEvaluate o s).control = s.control ∧ (sweepAndEvaluate o s).world = s.world
     ∧ (sweepAndEvaluate o s).freeCount = s.freeCount := by
  unfold sweepAndEvaluate; split <;> simp

/-- What beginReceiptsBeat leaves alone. -/
@[simp] theorem beginReceiptsBeat_frame  :
    (beginReceiptsBeat s).pending = s.pending ∧ (beginReceiptsBeat s).tb = s.tb
     ∧ (beginReceiptsBeat s).cues = s.cues ∧ (beginReceiptsBeat s).chans = s.chans
     ∧ (beginReceiptsBeat s).marks = s.marks ∧ (beginReceiptsBeat s).roster = s.roster
     ∧ (beginReceiptsBeat s).post = s.post ∧ (beginReceiptsBeat s).frames = s.frames
     ∧ (beginReceiptsBeat s).sig = s.sig ∧ (beginReceiptsBeat s).control = s.control
     ∧ (beginReceiptsBeat s).port = s.port ∧ (beginReceiptsBeat s).world = s.world
     ∧ (beginReceiptsBeat s).freeCount = s.freeCount
     ∧ (beginReceiptsBeat s).stepFixed = s.stepFixed := by
  unfold beginReceiptsBeat; split <;> simp

/-- What countRounds leaves alone: the receipts keep their number, key, verdict and time. -/
@[simp] theorem countRounds_frame (now : Time) (a : LineAccess) :
    (a.countRounds now).condition = a.condition ∧ (a.countRounds now).cutEnd = a.cutEnd
     ∧ (a.countRounds now).endSeen = a.endSeen ∧ (a.countRounds now).leavingPending = a.leavingPending
     ∧ (a.countRounds now).leavingCount = a.leavingCount ∧ (a.countRounds now).due = a.due
     ∧ (a.countRounds now).dueCount = a.dueCount ∧ (a.countRounds now).markCount = a.markCount
     ∧ (a.countRounds now).receiptsPending = a.receiptsPending ∧ (a.countRounds now).receiptsCount = a.receiptsCount
     ∧ (a.countRounds now).flight = a.flight ∧ (a.countRounds now).collisions = a.collisions
     ∧ (a.countRounds now).drops = a.drops ∧ (a.countRounds now).beatsSkipped = a.beatsSkipped
     ∧ (a.countRounds now).heldEpisodes = a.heldEpisodes
     ∧ (a.countRounds now).receipts.length = a.receipts.length
     ∧ (a.countRounds now).receipts.map HeldReceipt.bytes = a.receipts.map HeldReceipt.bytes := by
  simp [LineAccess.countRounds, HeldReceipt.bytes]

/-- With its rounds counted, the time since a tick grows by one with every tick, without limit (R154, log 36). -/
theorem elapsedOver_succ (rounds : Nat) (now since : Time) :
    elapsedOver (roundsAt (now + 1) since rounds) (now + 1) since = elapsedOver rounds now since + 1 := by
  unfold elapsedOver roundsAt elapsed
  by_cases h : now + 1 = since
  · subst h
    have : (now - (now + 1)).toNat = 2 ^ 48 - 1 := by bv_omega
    simp only [if_pos, BitVec.sub_self, BitVec.toNat_zero, this]
    omega
  · rw [if_neg h]
    bv_omega

/-- What lapseReceiptsBeat leaves alone. -/
@[simp] theorem lapseReceiptsBeat_frame  :
    (lapseReceiptsBeat s).pending = s.pending ∧ (lapseReceiptsBeat s).tb = s.tb
     ∧ (lapseReceiptsBeat s).cues = s.cues ∧ (lapseReceiptsBeat s).chans = s.chans
     ∧ (lapseReceiptsBeat s).marks = s.marks ∧ (lapseReceiptsBeat s).roster = s.roster
     ∧ (lapseReceiptsBeat s).post = s.post ∧ (lapseReceiptsBeat s).frames = s.frames
     ∧ (lapseReceiptsBeat s).sig = s.sig ∧ (lapseReceiptsBeat s).control = s.control
     ∧ (lapseReceiptsBeat s).port = s.port ∧ (lapseReceiptsBeat s).world = s.world
     ∧ (lapseReceiptsBeat s).freeCount = s.freeCount
     ∧ (lapseReceiptsBeat s).stepFixed = s.stepFixed := by
  unfold lapseReceiptsBeat; split <;> simp

/-- What startFrame leaves alone. -/
@[simp] theorem startFrame_frame (k : FlightKind) :
    (startFrame k s).pending = s.pending ∧ (startFrame k s).cues = s.cues ∧ (startFrame k s).chans = s.chans
     ∧ (startFrame k s).marks = s.marks ∧ (startFrame k s).roster = s.roster ∧ (startFrame k s).post = s.post
     ∧ (startFrame k s).control = s.control ∧ (startFrame k s).port = s.port ∧ (startFrame k s).world = s.world
     ∧ (startFrame k s).freeCount = s.freeCount
     ∧ (startFrame k s).stepFixed = s.stepFixed := by
  simp [startFrame]

/-- What frameStart leaves alone. -/
@[simp] theorem frameStart_frame  :
    (frameStart s).pending = s.pending ∧ (frameStart s).cues = s.cues ∧ (frameStart s).chans = s.chans
     ∧ (frameStart s).marks = s.marks ∧ (frameStart s).roster = s.roster ∧ (frameStart s).post = s.post
     ∧ (frameStart s).control = s.control ∧ (frameStart s).port = s.port ∧ (frameStart s).world = s.world
     ∧ (frameStart s).freeCount = s.freeCount
     ∧ (frameStart s).stepFixed = s.stepFixed := by
  unfold frameStart; split <;> simp

/-- What takeExpiry leaves alone. -/
@[simp] theorem takeExpiry_frame (o : ExpiryOrder) :
    (takeExpiry o s).pending = s.pending ∧ (takeExpiry o s).marks = s.marks
     ∧ (takeExpiry o s).control = s.control ∧ (takeExpiry o s).world = s.world
     ∧ (takeExpiry o s).freeCount = s.freeCount := by
  unfold takeExpiry; split <;> simp

/-- What a period expiry can do: nothing, while it waits for the slew step of its tick or when its time has not run; or
all it is handed to, as one event. -/
theorem expirePeriod_cases (o : ExpiryOrder) :
    expirePeriod o s = s ∨ s.periodExpired = true ∧ expirePeriod o s = takeExpiry o (nextPeriod s) := by
  unfold expirePeriod
  split
  · exact .inr ⟨by simp_all, rfl⟩
  · exact .inl rfl

/-- What expirePeriod leaves alone. -/
@[simp] theorem expirePeriod_frame (o : ExpiryOrder) :
    (expirePeriod o s).pending = s.pending ∧ (expirePeriod o s).marks = s.marks
     ∧ (expirePeriod o s).control = s.control ∧ (expirePeriod o s).world = s.world
     ∧ (expirePeriod o s).freeCount = s.freeCount := by
  rcases expirePeriod_cases s o with h | ⟨_, h⟩ <;> rw [h] <;> simp

/-- What endTransmission leaves alone. -/
@[simp] theorem endTransmission_frame  :
    (endTransmission s).pending = s.pending ∧ (endTransmission s).cues = s.cues
     ∧ (endTransmission s).chans = s.chans ∧ (endTransmission s).marks = s.marks
     ∧ (endTransmission s).roster = s.roster ∧ (endTransmission s).post = s.post
     ∧ (endTransmission s).control = s.control ∧ (endTransmission s).port = s.port
     ∧ (endTransmission s).world = s.world ∧ (endTransmission s).freeCount = s.freeCount
     ∧ (endTransmission s).stepFixed = s.stepFixed := by
  simp [endTransmission]

/-- What sentEffect leaves alone. -/
@[simp] theorem sentEffect_frame (f : Flight) :
    (sentEffect f s).pending = s.pending ∧ (sentEffect f s).sig = s.sig ∧ (sentEffect f s).world = s.world
     ∧ (sentEffect f s).freeCount = s.freeCount
     ∧ (sentEffect f s).stepFixed = s.stepFixed := by
  unfold sentEffect; split <;> (try split) <;> simp

/-- What countSent leaves alone. -/
@[simp] theorem countSent_frame (f : Flight) :
    (countSent f s).pending = s.pending ∧ (countSent f s).tb = s.tb ∧ (countSent f s).cues = s.cues
     ∧ (countSent f s).chans = s.chans ∧ (countSent f s).marks = s.marks ∧ (countSent f s).roster = s.roster
     ∧ (countSent f s).post = s.post ∧ (countSent f s).sig = s.sig ∧ (countSent f s).control = s.control
     ∧ (countSent f s).port = s.port ∧ (countSent f s).world = s.world ∧ (countSent f s).freeCount = s.freeCount
     ∧ (countSent f s).stepFixed = s.stepFixed := by
  simp [countSent]

/-- What sentWhole leaves alone. -/
@[simp] theorem sentWhole_frame (f : Flight) :
    (sentWhole f s).pending = s.pending ∧ (sentWhole f s).world = s.world
     ∧ (sentWhole f s).freeCount = s.freeCount
     ∧ (sentWhole f s).stepFixed = s.stepFixed := by
  simp [sentWhole]

/-- What cutEffect leaves alone. -/
@[simp] theorem cutEffect_frame (f : Flight) (n : Nat) :
    (cutEffect f n s).pending = s.pending ∧ (cutEffect f n s).tb = s.tb ∧ (cutEffect f n s).cues = s.cues
     ∧ (cutEffect f n s).chans = s.chans ∧ (cutEffect f n s).marks = s.marks
     ∧ (cutEffect f n s).roster = s.roster ∧ (cutEffect f n s).frames = s.frames ∧ (cutEffect f n s).sig = s.sig
     ∧ (cutEffect f n s).control = s.control ∧ (cutEffect f n s).port = s.port
     ∧ (cutEffect f n s).world = s.world ∧ (cutEffect f n s).freeCount = s.freeCount
     ∧ (cutEffect f n s).stepFixed = s.stepFixed := by
  unfold cutEffect; split <;> (try split) <;> (try split) <;> simp

/-- What dropEffect leaves alone. -/
@[simp] theorem dropEffect_frame (f : Flight) :
    (dropEffect f s).pending = s.pending ∧ (dropEffect f s).sig = s.sig ∧ (dropEffect f s).world = s.world
     ∧ (dropEffect f s).freeCount = s.freeCount
     ∧ (dropEffect f s).stepFixed = s.stepFixed := by
  unfold dropEffect; split <;> (try split) <;> simp

/-- What dropFrame leaves alone. -/
@[simp] theorem dropFrame_frame (f : Flight) :
    (dropFrame f s).pending = s.pending ∧ (dropFrame f s).sig = s.sig ∧ (dropFrame f s).world = s.world
     ∧ (dropFrame f s).freeCount = s.freeCount
     ∧ (dropFrame f s).stepFixed = s.stepFixed := by
  simp [dropFrame]

/-- What release leaves alone. -/
@[simp] theorem release_frame (f : Flight) :
    (release f s).pending = s.pending ∧ (release f s).cues = s.cues ∧ (release f s).chans = s.chans
     ∧ (release f s).marks = s.marks ∧ (release f s).roster = s.roster ∧ (release f s).post = s.post
     ∧ (release f s).control = s.control ∧ (release f s).port = s.port ∧ (release f s).world = s.world
     ∧ (release f s).freeCount = s.freeCount
     ∧ (release f s).stepFixed = s.stepFixed := by
  simp [release]

/-- What collide leaves alone. -/
@[simp] theorem collide_frame (f : Flight) :
    (collide f s).pending = s.pending ∧ (collide f s).world = s.world ∧ (collide f s).freeCount = s.freeCount
     ∧ (collide f s).stepFixed = s.stepFixed := by
  unfold collide; split <;> simp

/-- What echoCheck leaves alone. -/
@[simp] theorem echoCheck_frame (r : Option ReadBack) :
    (echoCheck r s).pending = s.pending ∧ (echoCheck r s).world = s.world
     ∧ (echoCheck r s).freeCount = s.freeCount
     ∧ (echoCheck r s).stepFixed = s.stepFixed := by
  unfold echoCheck; split <;> (try split) <;> (try split) <;> (try split) <;> simp

/-- What endCutWait leaves alone. -/
@[simp] theorem endCutWait_frame  :
    (endCutWait s).pending = s.pending ∧ (endCutWait s).tb = s.tb ∧ (endCutWait s).cues = s.cues
     ∧ (endCutWait s).chans = s.chans ∧ (endCutWait s).marks = s.marks ∧ (endCutWait s).roster = s.roster
     ∧ (endCutWait s).post = s.post ∧ (endCutWait s).frames = s.frames ∧ (endCutWait s).sig = s.sig
     ∧ (endCutWait s).control = s.control ∧ (endCutWait s).port = s.port ∧ (endCutWait s).world = s.world
     ∧ (endCutWait s).freeCount = s.freeCount
     ∧ (endCutWait s).stepFixed = s.stepFixed := by
  unfold endCutWait; split <;> (try split) <;> simp

/-- What beginHeld leaves alone. -/
@[simp] theorem beginHeld_frame  :
    (beginHeld s).pending = s.pending ∧ (beginHeld s).tb = s.tb ∧ (beginHeld s).cues = s.cues
     ∧ (beginHeld s).chans = s.chans ∧ (beginHeld s).marks = s.marks ∧ (beginHeld s).roster = s.roster
     ∧ (beginHeld s).post = s.post ∧ (beginHeld s).frames = s.frames ∧ (beginHeld s).sig = s.sig
     ∧ (beginHeld s).control = s.control ∧ (beginHeld s).world = s.world
     ∧ (beginHeld s).freeCount = s.freeCount
     ∧ (beginHeld s).stepFixed = s.stepFixed := by
  unfold beginHeld; split <;> simp

/-- What lineHeld leaves alone. -/
@[simp] theorem lineHeld_frame  :
    (lineHeld s).pending = s.pending ∧ (lineHeld s).tb = s.tb ∧ (lineHeld s).cues = s.cues
     ∧ (lineHeld s).chans = s.chans ∧ (lineHeld s).marks = s.marks ∧ (lineHeld s).roster = s.roster
     ∧ (lineHeld s).post = s.post ∧ (lineHeld s).frames = s.frames ∧ (lineHeld s).control = s.control
     ∧ (lineHeld s).world = s.world ∧ (lineHeld s).freeCount = s.freeCount
     ∧ (lineHeld s).stepFixed = s.stepFixed := by
  unfold lineHeld; split <;> simp

/-- What heldEnd leaves alone. -/
@[simp] theorem heldEnd_frame  :
    (heldEnd s).pending = s.pending ∧ (heldEnd s).tb = s.tb ∧ (heldEnd s).cues = s.cues
     ∧ (heldEnd s).chans = s.chans ∧ (heldEnd s).marks = s.marks ∧ (heldEnd s).roster = s.roster
     ∧ (heldEnd s).post = s.post ∧ (heldEnd s).frames = s.frames ∧ (heldEnd s).control = s.control
     ∧ (heldEnd s).port = s.port ∧ (heldEnd s).world = s.world ∧ (heldEnd s).freeCount = s.freeCount
     ∧ (heldEnd s).stepFixed = s.stepFixed := by
  unfold heldEnd; split <;> simp

/-- What takeTwin leaves alone. -/
@[simp] theorem takeTwin_frame (k q : Byte) :
    (takeTwin k q s).pending = s.pending ∧ (takeTwin k q s).tb = s.tb ∧ (takeTwin k q s).cues = s.cues
     ∧ (takeTwin k q s).chans = s.chans ∧ (takeTwin k q s).frames = s.frames ∧ (takeTwin k q s).sig = s.sig
     ∧ (takeTwin k q s).world = s.world ∧ (takeTwin k q s).freeCount = s.freeCount
     ∧ (takeTwin k q s).stepFixed = s.stepFixed := by
  unfold takeTwin; split <;> simp

/-- What dispatchHeader leaves alone. -/
@[simp] theorem dispatchHeader_frame (f : LineFrame) :
    (dispatchHeader f s).pending = s.pending ∧ (dispatchHeader f s).tb = s.tb
     ∧ (dispatchHeader f s).cues = s.cues ∧ (dispatchHeader f s).chans = s.chans
     ∧ (dispatchHeader f s).frames = s.frames ∧ (dispatchHeader f s).sig = s.sig
     ∧ (dispatchHeader f s).world = s.world ∧ (dispatchHeader f s).freeCount = s.freeCount
     ∧ (dispatchHeader f s).stepFixed = s.stepFixed := by
  unfold dispatchHeader; split <;> (try split) <;> simp

/-- What dispatchBody leaves alone. -/
@[simp] theorem dispatchBody_frame (f : LineFrame) (a : ArrivalStamp) :
    (dispatchBody f a s).pending = s.pending ∧ (dispatchBody f a s).marks = s.marks
     ∧ (dispatchBody f a s).frames = s.frames ∧ (dispatchBody f a s).sig = s.sig
     ∧ (dispatchBody f a s).control = s.control ∧ (dispatchBody f a s).world = s.world
     ∧ (dispatchBody f a s).freeCount = s.freeCount := by
  unfold dispatchBody; split <;> (try split) <;> simp

/-- What dispatch leaves alone. -/
@[simp] theorem dispatch_frame (f : LineFrame) (a : ArrivalStamp) :
    (dispatch f a s).pending = s.pending ∧ (dispatch f a s).frames = s.frames ∧ (dispatch f a s).sig = s.sig
     ∧ (dispatch f a s).world = s.world ∧ (dispatch f a s).freeCount = s.freeCount := by
  unfold dispatch; simp only []; split <;> simp

/-- What handFrameEnd leaves alone. -/
@[simp] theorem handFrameEnd_frame (r : FrameEndRef) :
    (handFrameEnd r s).pending = s.pending ∧ (handFrameEnd r s).tb = s.tb ∧ (handFrameEnd r s).cues = s.cues
     ∧ (handFrameEnd r s).chans = s.chans ∧ (handFrameEnd r s).marks = s.marks
     ∧ (handFrameEnd r s).roster = s.roster ∧ (handFrameEnd r s).post = s.post
     ∧ (handFrameEnd r s).frames = s.frames ∧ (handFrameEnd r s).sig = s.sig
     ∧ (handFrameEnd r s).control = s.control ∧ (handFrameEnd r s).port = s.port
     ∧ (handFrameEnd r s).world = s.world ∧ (handFrameEnd r s).freeCount = s.freeCount
     ∧ (handFrameEnd r s).stepFixed = s.stepFixed := by
  simp [handFrameEnd]

/-- What dispatchVerdict leaves alone. -/
@[simp] theorem dispatchVerdict_frame (v : FrameVerdict) (a : ArrivalStamp) :
    (dispatchVerdict v a s).pending = s.pending ∧ (dispatchVerdict v a s).frames = s.frames
     ∧ (dispatchVerdict v a s).sig = s.sig ∧ (dispatchVerdict v a s).world = s.world
     ∧ (dispatchVerdict v a s).freeCount = s.freeCount := by
  unfold dispatchVerdict; split <;> simp

/-- What endFrame leaves alone. -/
@[simp] theorem endFrame_frame (a : Assembly) (h : FrameEnd) :
    (endFrame a h s).pending = s.pending ∧ (endFrame a h s).sig = s.sig ∧ (endFrame a h s).world = s.world
     ∧ (endFrame a h s).freeCount = s.freeCount := by
  simp [endFrame]

/-- What extendFrame leaves alone. -/
@[simp] theorem extendFrame_frame (c : RxChar) (a : Assembly) :
    (extendFrame c a s).pending = s.pending ∧ (extendFrame c a s).sig = s.sig
     ∧ (extendFrame c a s).world = s.world ∧ (extendFrame c a s).freeCount = s.freeCount := by
  unfold extendFrame; simp only []; split <;> simp

/-- What openFrame leaves alone. -/
@[simp] theorem openFrame_frame (c : RxChar) (t : Option ArrivalStamp) :
    (openFrame c t s).pending = s.pending ∧ (openFrame c t s).tb = s.tb ∧ (openFrame c t s).cues = s.cues
     ∧ (openFrame c t s).chans = s.chans ∧ (openFrame c t s).marks = s.marks
     ∧ (openFrame c t s).roster = s.roster ∧ (openFrame c t s).post = s.post ∧ (openFrame c t s).sig = s.sig
     ∧ (openFrame c t s).control = s.control ∧ (openFrame c t s).port = s.port
     ∧ (openFrame c t s).world = s.world ∧ (openFrame c t s).freeCount = s.freeCount
     ∧ (openFrame c t s).stepFixed = s.stepFixed := by
  simp [openFrame]

/-- What strayCharacter leaves alone. -/
@[simp] theorem strayCharacter_frame (c : RxChar) :
    (strayCharacter c s).pending = s.pending ∧ (strayCharacter c s).tb = s.tb
     ∧ (strayCharacter c s).cues = s.cues ∧ (strayCharacter c s).chans = s.chans
     ∧ (strayCharacter c s).marks = s.marks ∧ (strayCharacter c s).roster = s.roster
     ∧ (strayCharacter c s).post = s.post ∧ (strayCharacter c s).sig = s.sig
     ∧ (strayCharacter c s).control = s.control ∧ (strayCharacter c s).port = s.port
     ∧ (strayCharacter c s).world = s.world ∧ (strayCharacter c s).freeCount = s.freeCount
     ∧ (strayCharacter c s).stepFixed = s.stepFixed := by
  simp [strayCharacter]

/-- What assemble leaves alone. -/
@[simp] theorem assemble_frame (c : RxChar) (t : Option ArrivalStamp) :
    (assemble c t s).pending = s.pending ∧ (assemble c t s).sig = s.sig ∧ (assemble c t s).world = s.world
     ∧ (assemble c t s).freeCount = s.freeCount := by
  unfold assemble; split <;> (try split) <;> simp

/-- What gapFound leaves alone. -/
@[simp] theorem gapFound_frame  :
    (gapFound s).pending = s.pending ∧ (gapFound s).sig = s.sig ∧ (gapFound s).world = s.world
     ∧ (gapFound s).freeCount = s.freeCount := by
  unfold gapFound; split <;> (try split) <;> simp

/-- What openCheck leaves alone. -/
@[simp] theorem openCheck_frame :
    (openCheck s).pending = s.pending ∧ (openCheck s).cues = s.cues ∧ (openCheck s).chans = s.chans
     ∧ (openCheck s).marks = s.marks ∧ (openCheck s).roster = s.roster ∧ (openCheck s).post = s.post
     ∧ (openCheck s).frames = s.frames ∧ (openCheck s).access = s.access ∧ (openCheck s).control = s.control
     ∧ (openCheck s).port = s.port ∧ (openCheck s).world = s.world ∧ (openCheck s).freeCount = s.freeCount
     ∧ (openCheck s).stepFixed = s.stepFixed := by
  simp [openCheck]

/-- What confirmStart leaves alone. -/
@[simp] theorem confirmStart_frame (n : Bool) :
    (confirmStart n s).pending = s.pending ∧ (confirmStart n s).tb = s.tb ∧ (confirmStart n s).cues = s.cues
     ∧ (confirmStart n s).chans = s.chans ∧ (confirmStart n s).marks = s.marks
     ∧ (confirmStart n s).roster = s.roster ∧ (confirmStart n s).post = s.post
     ∧ (confirmStart n s).frames = s.frames ∧ (confirmStart n s).control = s.control
     ∧ (confirmStart n s).port = s.port ∧ (confirmStart n s).world = s.world
     ∧ (confirmStart n s).freeCount = s.freeCount
     ∧ (confirmStart n s).stepFixed = s.stepFixed := by
  unfold confirmStart; split <;> simp

/-- What glitch leaves alone. -/
@[simp] theorem glitch_frame  :
    (glitch s).pending = s.pending ∧ (glitch s).cues = s.cues ∧ (glitch s).chans = s.chans
     ∧ (glitch s).marks = s.marks ∧ (glitch s).roster = s.roster ∧ (glitch s).post = s.post
     ∧ (glitch s).frames = s.frames ∧ (glitch s).access = s.access ∧ (glitch s).control = s.control
     ∧ (glitch s).port = s.port ∧ (glitch s).world = s.world ∧ (glitch s).freeCount = s.freeCount
     ∧ (glitch s).stepFixed = s.stepFixed := by
  unfold glitch; split <;> simp

/-- What receiveCharacter leaves alone. -/
@[simp] theorem receiveCharacter_frame (c : RxChar) :
    (receiveCharacter c s).pending = s.pending ∧ (receiveCharacter c s).cues = s.cues
     ∧ (receiveCharacter c s).chans = s.chans ∧ (receiveCharacter c s).marks = s.marks
     ∧ (receiveCharacter c s).roster = s.roster ∧ (receiveCharacter c s).post = s.post
     ∧ (receiveCharacter c s).access = s.access ∧ (receiveCharacter c s).control = s.control
     ∧ (receiveCharacter c s).port = s.port ∧ (receiveCharacter c s).world = s.world
     ∧ (receiveCharacter c s).freeCount = s.freeCount
     ∧ (receiveCharacter c s).stepFixed = s.stepFixed := by
  simp [receiveCharacter]

/-- What deliverCharacter leaves alone. -/
@[simp] theorem deliverCharacter_frame (c : RxChar) :
    (deliverCharacter c s).pending = s.pending ∧ (deliverCharacter c s).world = s.world
     ∧ (deliverCharacter c s).freeCount = s.freeCount := by
  unfold deliverCharacter; split <;> simp

/-- What startEdge can do: nothing, or a character is delivered or none awaits, and the check begins. -/
theorem startEdge_cases :
    startEdge s = s ∨ startEdge s = openCheck s ∨ ∃ c, startEdge s = openCheck (deliverCharacter c s) := by
  unfold startEdge deliverWaiting
  cases s.sig.waiting <;> split <;> simp
  exact .inr (.inr ⟨_, rfl⟩)

/-- What startEdge leaves alone. -/
@[simp] theorem startEdge_frame :
    (startEdge s).pending = s.pending ∧ (startEdge s).world = s.world ∧ (startEdge s).freeCount = s.freeCount := by
  rcases startEdge_cases (s := s) with h | h | ⟨c, h⟩ <;> simp [h]

end Sys2Proof.Machine
end

