-- ==== Sys2Proof/Laws/Port.lean ====
section
/-! SUPPORT. What the operations of the local port and the acceptance of postings leave alone. -/

namespace Sys2Proof.Machine

variable (s : State)

/-- What answer leaves alone. -/
@[simp] theorem answer_frame (r : Reply) :
    (answer r s).pending = s.pending ∧ (answer r s).tb = s.tb ∧ (answer r s).cues = s.cues
     ∧ (answer r s).chans = s.chans ∧ (answer r s).marks = s.marks ∧ (answer r s).roster = s.roster
     ∧ (answer r s).post = s.post ∧ (answer r s).frames = s.frames ∧ (answer r s).access = s.access
     ∧ (answer r s).sig = s.sig ∧ (answer r s).control = s.control ∧ (answer r s).world = s.world
     ∧ (answer r s).freeCount = s.freeCount
     ∧ (answer r s).stepFixed = s.stepFixed := by
  simp [answer]

/-- What gather leaves alone. -/
@[simp] theorem gather_frame (chars : List Byte) :
    (gather chars s).pending = s.pending ∧ (gather chars s).tb = s.tb ∧ (gather chars s).cues = s.cues
     ∧ (gather chars s).chans = s.chans ∧ (gather chars s).marks = s.marks ∧ (gather chars s).roster = s.roster
     ∧ (gather chars s).post = s.post ∧ (gather chars s).frames = s.frames ∧ (gather chars s).access = s.access
     ∧ (gather chars s).sig = s.sig ∧ (gather chars s).control = s.control ∧ (gather chars s).world = s.world
     ∧ (gather chars s).freeCount = s.freeCount
     ∧ (gather chars s).stepFixed = s.stepFixed := by
  simp [gather]

/-- What gatherRequest leaves alone. -/
@[simp] theorem gatherRequest_frame (code : Byte) (body : List Byte) :
    (gatherRequest code body s).pending = s.pending ∧ (gatherRequest code body s).tb = s.tb
     ∧ (gatherRequest code body s).cues = s.cues ∧ (gatherRequest code body s).chans = s.chans
     ∧ (gatherRequest code body s).marks = s.marks ∧ (gatherRequest code body s).roster = s.roster
     ∧ (gatherRequest code body s).post = s.post ∧ (gatherRequest code body s).frames = s.frames
     ∧ (gatherRequest code body s).access = s.access ∧ (gatherRequest code body s).sig = s.sig
     ∧ (gatherRequest code body s).control = s.control ∧ (gatherRequest code body s).world = s.world
     ∧ (gatherRequest code body s).freeCount = s.freeCount
     ∧ (gatherRequest code body s).stepFixed = s.stepFixed := by
  simp [gatherRequest]

/-- The request buffer is the one thing of the port that gathering a request changes (R207). -/
@[simp] theorem gatherRequest_port (code : Byte) (body : List Byte) :
    (gatherRequest code body s).port = { s.port with request := code :: byte body.length :: body } := rfl

/-- The request buffer is the one thing of the port that gathering characters changes (R207). -/
@[simp] theorem gather_port (chars : List Byte) :
    (gather chars s).port = { s.port with request := keptChars chars } := rfl

/-- A character is read back from the bits it is clocked as. -/
theorem charOfBits_clockedBits (c : Byte) : charOfBits (clockedBits c) = c := by
  revert c; decide +kernel

/-- Whole characters and a partial one, clocked in one after another, give the whole characters (R207). -/
theorem charsOfBits_clocked (chars : List Byte) (rest : List Bool) (h : rest.length < 8) :
    charsOfBits (chars.flatMap clockedBits ++ rest) = chars := by
  induction chars with
  | nil =>
    rw [List.flatMap_nil, List.nil_append]
    unfold charsOfBits
    split
    · simp at h; omega
    · rfl
  | cons c cs ih =>
    have hc := charOfBits_clockedBits c
    simp only [clockedBits, List.map_cons, List.map_nil] at hc
    simp only [List.flatMap_cons, clockedBits, List.map_cons, List.map_nil, List.cons_append, List.nil_append,
      charsOfBits, hc]
    exact congrArg _ ih

/-- What joinList leaves alone. -/
@[simp] theorem joinList_frame (p : Posting) :
    (joinList p s).pending = s.pending ∧ (joinList p s).tb = s.tb ∧ (joinList p s).cues = s.cues
     ∧ (joinList p s).chans = s.chans ∧ (joinList p s).marks = s.marks ∧ (joinList p s).roster = s.roster
     ∧ (joinList p s).frames = s.frames ∧ (joinList p s).access = s.access ∧ (joinList p s).sig = s.sig
     ∧ (joinList p s).control = s.control ∧ (joinList p s).port = s.port ∧ (joinList p s).world = s.world
     ∧ (joinList p s).freeCount = s.freeCount
     ∧ (joinList p s).stepFixed = s.stepFixed := by
  simp [joinList]

/-- What settleSelf leaves alone. -/
@[simp] theorem settleSelf_frame (b : PostBody) :
    ((settleSelf b s).1).pending = s.pending ∧ ((settleSelf b s).1).tb = s.tb
     ∧ ((settleSelf b s).1).marks = s.marks ∧ ((settleSelf b s).1).roster = s.roster
     ∧ ((settleSelf b s).1).post = s.post ∧ ((settleSelf b s).1).frames = s.frames
     ∧ ((settleSelf b s).1).access = s.access ∧ ((settleSelf b s).1).sig = s.sig
     ∧ ((settleSelf b s).1).control = s.control ∧ ((settleSelf b s).1).world = s.world
     ∧ ((settleSelf b s).1).freeCount = s.freeCount := by
  unfold settleSelf; split <;> simp

/-- What takeSelf leaves alone. -/
@[simp] theorem takeSelf_frame (p : Posting) :
    (takeSelf p s).pending = s.pending ∧ (takeSelf p s).tb = s.tb ∧ (takeSelf p s).marks = s.marks
     ∧ (takeSelf p s).roster = s.roster ∧ (takeSelf p s).frames = s.frames ∧ (takeSelf p s).access = s.access
     ∧ (takeSelf p s).sig = s.sig ∧ (takeSelf p s).control = s.control ∧ (takeSelf p s).world = s.world
     ∧ (takeSelf p s).freeCount = s.freeCount := by
  unfold takeSelf; split <;> simp

/-- What settlePosting leaves alone. -/
@[simp] theorem settlePosting_frame (p : Posting) :
    (settlePosting p s).pending = s.pending ∧ (settlePosting p s).tb = s.tb ∧ (settlePosting p s).cues = s.cues
     ∧ (settlePosting p s).chans = s.chans ∧ (settlePosting p s).marks = s.marks
     ∧ (settlePosting p s).roster = s.roster ∧ (settlePosting p s).frames = s.frames
     ∧ (settlePosting p s).sig = s.sig ∧ (settlePosting p s).control = s.control
     ∧ (settlePosting p s).world = s.world ∧ (settlePosting p s).freeCount = s.freeCount
     ∧ (settlePosting p s).stepFixed = s.stepFixed := by
  unfold settlePosting; split <;> (try split) <;> simp

/-- What takePosting leaves alone. -/
@[simp] theorem takePosting_frame (t : Target) (b : PostBody) :
    (takePosting t b s).pending = s.pending ∧ (takePosting t b s).tb = s.tb
     ∧ (takePosting t b s).marks = s.marks ∧ (takePosting t b s).roster = s.roster
     ∧ (takePosting t b s).frames = s.frames ∧ (takePosting t b s).sig = s.sig
     ∧ (takePosting t b s).control = s.control ∧ (takePosting t b s).world = s.world
     ∧ (takePosting t b s).freeCount = s.freeCount := by
  simp [takePosting]

/-- What takePost leaves alone. -/
@[simp] theorem takePost_frame (t : Target) (rs : List CueSpec) :
    ((takePost t rs s).1).pending = s.pending ∧ ((takePost t rs s).1).tb = s.tb
     ∧ ((takePost t rs s).1).marks = s.marks ∧ ((takePost t rs s).1).roster = s.roster
     ∧ ((takePost t rs s).1).frames = s.frames ∧ ((takePost t rs s).1).sig = s.sig
     ∧ ((takePost t rs s).1).control = s.control ∧ ((takePost t rs s).1).world = s.world
     ∧ ((takePost t rs s).1).freeCount = s.freeCount := by
  unfold takePost; split <;> (try split) <;> simp

/-- What takeWithdraw leaves alone. -/
@[simp] theorem takeWithdraw_frame (t : Target) (vs : List Byte) :
    ((takeWithdraw t vs s).1).pending = s.pending ∧ ((takeWithdraw t vs s).1).tb = s.tb
     ∧ ((takeWithdraw t vs s).1).marks = s.marks ∧ ((takeWithdraw t vs s).1).roster = s.roster
     ∧ ((takeWithdraw t vs s).1).frames = s.frames ∧ ((takeWithdraw t vs s).1).sig = s.sig
     ∧ ((takeWithdraw t vs s).1).control = s.control ∧ ((takeWithdraw t vs s).1).world = s.world
     ∧ ((takeWithdraw t vs s).1).freeCount = s.freeCount := by
  unfold takeWithdraw; split <;> (try split) <;> simp

/-- What post leaves alone. -/
@[simp] theorem post_frame (b : List Byte) :
    (post b s).pending = s.pending ∧ (post b s).tb = s.tb ∧ (post b s).marks = s.marks
     ∧ (post b s).roster = s.roster ∧ (post b s).frames = s.frames ∧ (post b s).sig = s.sig
     ∧ (post b s).control = s.control ∧ (post b s).world = s.world ∧ (post b s).freeCount = s.freeCount := by
  unfold post; split <;> simp

/-- What withdraw leaves alone. -/
@[simp] theorem withdraw_frame (b : List Byte) :
    (withdraw b s).pending = s.pending ∧ (withdraw b s).tb = s.tb ∧ (withdraw b s).marks = s.marks
     ∧ (withdraw b s).roster = s.roster ∧ (withdraw b s).frames = s.frames ∧ (withdraw b s).sig = s.sig
     ∧ (withdraw b s).control = s.control ∧ (withdraw b s).world = s.world
     ∧ (withdraw b s).freeCount = s.freeCount := by
  unfold withdraw; split <;> simp

/-- What configure leaves alone. -/
@[simp] theorem configure_frame (b : List Byte) :
    (configure b s).pending = s.pending ∧ (configure b s).tb = s.tb ∧ (configure b s).cues = s.cues
     ∧ (configure b s).marks = s.marks ∧ (configure b s).roster = s.roster ∧ (configure b s).post = s.post
     ∧ (configure b s).frames = s.frames ∧ (configure b s).access = s.access ∧ (configure b s).sig = s.sig
     ∧ (configure b s).world = s.world ∧ (configure b s).freeCount = s.freeCount
     ∧ (configure b s).stepFixed = s.stepFixed := by
  unfold configure; split <;> (try split) <;> (try split) <;> simp

/-- What removeReports leaves alone. -/
@[simp] theorem removeReports_frame (n : Nat) :
    (removeReports n s).pending = s.pending ∧ (removeReports n s).tb = s.tb ∧ (removeReports n s).cues = s.cues
     ∧ (removeReports n s).chans = s.chans ∧ (removeReports n s).marks = s.marks
     ∧ (removeReports n s).roster = s.roster ∧ (removeReports n s).post = s.post
     ∧ (removeReports n s).frames = s.frames ∧ (removeReports n s).access = s.access
     ∧ (removeReports n s).sig = s.sig ∧ (removeReports n s).control = s.control
     ∧ (removeReports n s).world = s.world ∧ (removeReports n s).freeCount = s.freeCount
     ∧ (removeReports n s).stepFixed = s.stepFixed := by
  simp [removeReports]

/-- What takeFetch leaves alone. -/
@[simp] theorem takeFetch_frame  :
    (takeFetch s).pending = s.pending ∧ (takeFetch s).tb = s.tb ∧ (takeFetch s).cues = s.cues
     ∧ (takeFetch s).chans = s.chans ∧ (takeFetch s).marks = s.marks ∧ (takeFetch s).roster = s.roster
     ∧ (takeFetch s).post = s.post ∧ (takeFetch s).frames = s.frames ∧ (takeFetch s).access = s.access
     ∧ (takeFetch s).sig = s.sig ∧ (takeFetch s).control = s.control ∧ (takeFetch s).world = s.world
     ∧ (takeFetch s).freeCount = s.freeCount
     ∧ (takeFetch s).stepFixed = s.stepFixed := by
  simp [takeFetch]

/-- What takeOpen leaves alone. -/
@[simp] theorem takeOpen_frame  :
    (takeOpen s).pending = s.pending ∧ (takeOpen s).cues = s.cues ∧ (takeOpen s).chans = s.chans
     ∧ (takeOpen s).marks = s.marks ∧ (takeOpen s).roster = s.roster ∧ (takeOpen s).post = s.post
     ∧ (takeOpen s).frames = s.frames ∧ (takeOpen s).sig = s.sig ∧ (takeOpen s).world = s.world
     ∧ (takeOpen s).freeCount = s.freeCount
     ∧ (takeOpen s).stepFixed = s.stepFixed := by
  unfold takeOpen; split <;> (try split) <;> simp

/-- What expireLinger leaves alone. -/
@[simp] theorem expireLinger_frame  :
    (expireLinger s).pending = s.pending ∧ (expireLinger s).tb = s.tb ∧ (expireLinger s).cues = s.cues
     ∧ (expireLinger s).chans = s.chans ∧ (expireLinger s).marks = s.marks ∧ (expireLinger s).roster = s.roster
     ∧ (expireLinger s).post = s.post ∧ (expireLinger s).frames = s.frames ∧ (expireLinger s).access = s.access
     ∧ (expireLinger s).sig = s.sig ∧ (expireLinger s).control = s.control ∧ (expireLinger s).world = s.world
     ∧ (expireLinger s).freeCount = s.freeCount
     ∧ (expireLinger s).stepFixed = s.stepFixed := by
  unfold expireLinger; split <;> simp

/-- A request without a body either is taken or answers BAD_REQUEST (R209). -/
theorem bodyless_spec (body : List Byte) (taken : State → State) :
    (body = [] ∧ bodyless body taken s = taken s)
      ∨ (body ≠ [] ∧ bodyless body taken s = answer (Reply.refusal .badRequest) s) := by
  cases body <;> simp [bodyless]

end Sys2Proof.Machine
end

