-- ==== Sys2Proof/Laws/Postings.lean ====
section
/-! SUPPORT. The posting list: what settling a posting changes, a posting found again after it was written, all of them
abandoned, and the serials and ids that are free. -/

namespace Sys2Proof.Machine

/-- Of the line access unit and the posting unit, only the frame in flight and the posting list change. -/
def SettlesOnly (s t : State) : Prop :=
  t.access = { s.access with flight := t.access.flight } ∧ t.post = { s.post with list := t.post.list }
  ∧ (s.access.flight = none → t.access.flight = none)

/-- It holds of a state and itself. -/
theorem SettlesOnly.refl (s : State) : SettlesOnly s s := ⟨rfl, rfl, id⟩
/-- It carries over from one change to the next. -/
theorem SettlesOnly.trans {s t u} (h : SettlesOnly s t) (h' : SettlesOnly t u) : SettlesOnly s u :=
  ⟨by rw [h'.1, h.1], by rw [h'.2.1, h.2.1], fun x => h'.2.2 (h.2.2 x)⟩
/-- What finishPosting changes of the two units. -/
theorem finishPosting_settlesOnly (id : Byte) (o : PostOutcome) (s : State) : SettlesOnly s (finishPosting id o s) :=
  by
  unfold finishPosting; split
  · exact SettlesOnly.refl _
  · refine ⟨rfl, rfl, fun h => ?_⟩; simp [enqueue, State.onPort, State.onPost, State.onAccess, h]
/-- What setPosting changes of the two units. -/
theorem setPosting_settlesOnly (p : Posting) (s : State) : SettlesOnly s (setPosting p s) := ⟨rfl, rfl, id⟩
/-- What completionTest changes of the two units. -/
theorem completionTest_settlesOnly (id : Byte) (s : State) : SettlesOnly s (completionTest id s) := by
  unfold completionTest; split
  · exact SettlesOnly.refl _
  · split
    · exact finishPosting_settlesOnly _ _ _
    · exact SettlesOnly.refl _
/-- What takeReceipt changes of the two units. -/
theorem takeReceipt_settlesOnly (p : StationNo) (r : Receipt) (s : State) : SettlesOnly s (takeReceipt p r s) := by
  unfold takeReceipt; split
  · exact SettlesOnly.refl _
  · split
    · exact SettlesOnly.refl _
    · split
      · exact (setPosting_settlesOnly _ _).trans (completionTest_settlesOnly _ _)
      · exact SettlesOnly.refl _
/-- It carries over a list of changes. -/
theorem foldl_settlesOnly {α} (f : State → α → State) (h : ∀ s a, SettlesOnly s (f s a)) :
    ∀ (l : List α) s, SettlesOnly s (l.foldl f s)
  | [], s => SettlesOnly.refl s
  | a :: l, s => (h s a).trans (foldl_settlesOnly f h l _)
/-- What takeReceipts changes of the two units. -/
theorem takeReceipts_settlesOnly (p : StationNo) (rs : List Receipt) (s : State) :
    SettlesOnly s (takeReceipts p rs s) :=
  foldl_settlesOnly _ (fun s r => takeReceipt_settlesOnly p r s) rs s
/-- What absentAtPosting changes of the two units. -/
theorem absentAtPosting_settlesOnly (p : StationNo) (id : Byte) (s : State) : SettlesOnly s (absentAtPosting p id s) :=
  by
  unfold absentAtPosting; split
  · exact SettlesOnly.refl _
  · exact (setPosting_settlesOnly _ _).trans (completionTest_settlesOnly _ _)
/-- What absentNotice changes of the two units. -/
theorem absentNotice_settlesOnly (p : StationNo) (s : State) : SettlesOnly s (absentNotice p s) :=
  foldl_settlesOnly _ (fun s r => absentAtPosting_settlesOnly p r s) _ s
/-- What queueReport changes of the two units. -/
theorem queueReport_settlesOnly (b : ReportBody) (s : State) : SettlesOnly s (queueReport b s) := by
  unfold queueReport
  split <;> exact ⟨rfl, rfl, id⟩
/-- What queueReports changes of the two units. -/
theorem queueReports_settlesOnly (b : List ReportBody) (s : State) : SettlesOnly s (queueReports b s) :=
  foldl_settlesOnly _ (fun s r => queueReport_settlesOnly r s) _ s
/-- What setPeer changes of the two units. -/
theorem setPeer_settlesOnly (p : StationNo) (e : Peer) (s : State) : SettlesOnly s (setPeer p e s) := by
  unfold setPeer
  split <;> exact ⟨rfl, rfl, id⟩
/-- What makeAbsent changes of the two units. -/
theorem makeAbsent_settlesOnly (p : StationNo) (e : Peer) (c : RosterCause) (s : State) :
    SettlesOnly s (makeAbsent p e c s) :=
  ((setPeer_settlesOnly _ _ _).trans (queueReport_settlesOnly _ _)).trans (absentNotice_settlesOnly _ _)
/-- What rosterBeat changes of the two units. -/
theorem rosterBeat_settlesOnly (p : StationNo) (b : BeatBody) (h : Time) (s : State) :
    SettlesOnly s (rosterBeat p b h s) :=
  by
  unfold rosterBeat; split
  · split
    · exact SettlesOnly.refl _
    · split
      · unfold matchingBeat; split
        · split
          · exact setPeer_settlesOnly _ _ _
          · exact makeAbsent_settlesOnly _ _ _ _
        · exact (setPeer_settlesOnly _ _ _).trans (queueReports_settlesOnly _ _)
      · unfold mismatchedBeat; split
        · exact SettlesOnly.refl _
        · exact (setPeer_settlesOnly _ _ _).trans (queueReport_settlesOnly _ _)
  · exact SettlesOnly.refl _
/-- What sequenceCheck changes of the two units. -/
theorem sequenceCheck_settlesOnly (p : StationNo) (q : Byte) (s : State) : SettlesOnly s (sequenceCheck p q s) := by
  unfold sequenceCheck; split; exact setPeer_settlesOnly _ _ _; exact SettlesOnly.refl _


/-- What sweepEntry changes of the two units. -/
theorem sweepEntry_settlesOnly (s : State) (p : StationNo) : SettlesOnly s (sweepEntry s p) := by
  unfold sweepEntry; split
  · exact SettlesOnly.refl _
  · split
    · exact (setPeer_settlesOnly _ _ _).trans (queueReport_settlesOnly _ _)
    · exact makeAbsent_settlesOnly _ _ _ _
    · exact makeAbsent_settlesOnly _ _ _ _
    · exact SettlesOnly.refl _

/-- The sweep leaves the pending set alone. -/
theorem sweep_settlesOnly (s : State) : SettlesOnly s (sweep s) := foldl_settlesOnly _ sweepEntry_settlesOnly _ s

/-- A posting written back in its place is found by its id. -/
theorem posting?_setPosting (s : State) (p q : Posting) (hq : q.id = p.id) (h : s.posting? p.id = some p) :
    (setPosting q s).posting? p.id = some q := by
  simp only [State.posting?, setPosting, State.onPost] at *
  rw [List.find?_map]
  rw [show ((fun r : Posting => r.id == p.id) ∘ fun r => if (r.id == q.id) = true then q else r) = fun r => r.id == p.id from by
    funext r; simp only [Function.comp, hq]; by_cases hr : r.id = p.id <;> simp [hr, hq]]
  rw [h]; simp [hq]

/-- With no two ids alike, a posting of the list is found by its id. -/
theorem find_posting_of_mem (l : List Posting) (p : Posting) (hp : p ∈ l) (hn : (l.map Posting.id).Nodup) :
    l.find? (fun q => q.id == p.id) = some p := by
  induction l with
  | nil => simp at hp
  | cons a l ih =>
    simp only [List.map_cons, List.nodup_cons] at hn
    rw [List.find?_cons]
    rcases List.mem_cons.1 hp with rfl | h
    · simp
    · have : a.id ≠ p.id := fun h' => hn.1 (h' ▸ List.mem_map_of_mem h)
      rw [show (a.id == p.id) = false by simpa using this]; exact ih h hn.2

/-- With no serial in two postings, the posting that carries a serial is found by it (R116). -/
theorem find_carrier_of_mem (l : List Posting) (p : Posting) (v : Byte) (hp : p ∈ l) (hv : v ∈ p.serials)
    (hn : (l.flatMap Posting.serials).Nodup) :
   l.find? (fun q => q.serials.contains v) = some p := by
  induction l with
  | nil => simp at hp
  | cons a l ih =>
    simp only [List.flatMap_cons, List.nodup_append] at hn
    rw [List.find?_cons]
    rcases List.mem_cons.1 hp with rfl | h
    · simp [hv]
    · have : v ∉ a.serials := fun h' => hn.2.2 _ h' _ (List.mem_flatMap.2 ⟨p, h, hv⟩) rfl
      rw [show (a.serials.contains v) = false by simpa using this]; exact ih h hn.2.1

/-- A posting written back and tested for completion (R117): sent and answered it finishes COMPLETE, otherwise it stands
in its place. -/
theorem completionTest_setPosting (s : State) (p q : Posting) (hn : (s.post.list.map Posting.id).Nodup)
    (hp : p ∈ s.post.list) (hq : q.id = p.id) :
   completionTest p.id (setPosting q s) = if 1 ≤ q.sent ∧ q.answered then
      enqueue (.postingDone (q.doneReport .complete)) { s with
            post := { s.post with list := s.post.list.eraseP fun q => q.id = p.id }
            access := { s.access with flight := s.access.flight.map (Flight.losePosting p.id) } }
     else { s with post := { s.post with list := s.post.list.map fun x => if x.id = p.id then q else x } } := by
  have hf := posting?_setPosting s p q hq (find_posting_of_mem _ p hp hn)
  unfold completionTest; rw [hf]; simp only
  split
  · unfold finishPosting; rw [hf]; simp only
    have he : ((setPosting q s).post.list.eraseP fun x => x.id == p.id) = s.post.list.eraseP fun x => x.id = p.id := by
      simp only [setPosting, State.onPost, hq]
      clear hf hp
      generalize s.post.list = l at hn
      induction l with
      | nil => rfl
      | cons a l ih =>
        simp only [List.map_cons, List.nodup_cons] at hn
        by_cases ha : a.id = p.id
        · simp [ha, hq]
          conv_rhs => rw [← List.map_id l]
          apply List.map_congr_left
          intro x hx
          rw [if_neg]; rfl
          intro hxp
          exact absurd (List.mem_map_of_mem hx : x.id ∈ l.map Posting.id) (by rw [hxp, ← ha]; exact hn.1)
        · simp [ha]; simpa using ih hn.2
    simp only [State.onPost, State.onAccess] at he ⊢
    rw [he]; rfl
  · simp [setPosting, State.onPost, hq]

/-- The oldest posting is found by its id. -/
theorem posting?_head (p : Posting) (rest : List Posting) (s : State) (h : s.post.list = p :: rest) :
    s.posting? p.id = some p := by
  simp [State.posting?, h]

/-- The oldest posting finishes. -/
theorem finishPosting_head (p : Posting) (rest : List Posting) (s : State) (o : PostOutcome)
    (h : s.post.list = p :: rest) :
    finishPosting p.id o s = enqueue (.postingDone (p.doneReport o))
      { s with
        post := { s.post with list := rest }
        access := { s.access with flight := s.access.flight.map (Flight.losePosting p.id) } } := by
  simp [finishPosting, posting?_head p rest s h, State.onPost, State.onAccess, h]

/-- Every posting finishes ABANDONED in list order: the list is empty, and their reports stand in that order behind
what the queue held. -/
theorem abandonAll_spec : ∀ (l : List Posting) (s : State), s.post.list = l →
    ∃ flight port, (l.map Posting.id).foldl (fun s id => finishPosting id .abandoned s) s =
        { s with
          post := { s.post with list := [] }
          access := { s.access with flight := flight }
          port := port }
      ∧ port.queue.map Report.body
          = s.port.queue.map Report.body ++ l.map (fun p => .postingDone (p.doneReport .abandoned))
      ∧ port.holder = s.port.holder ∧ port.exchange = s.port.exchange
      ∧ port.queue.length = s.port.queue.length + l.length
      ∧ (s.access.flight = none → flight = none)
  | [], s, h => ⟨s.access.flight, s.port, by cases s; rename_i a b c d e f p g i j k l m n q; cases p; simp_all, by simp, rfl, rfl, by simp, id⟩
  | p :: rest, s, h => by
    simp only [List.map_cons, List.foldl_cons, finishPosting_head p rest s .abandoned h]
    obtain ⟨fl, pt, h1, h2, h3, h4, h5, h6⟩ := abandonAll_spec rest (enqueue (.postingDone (p.doneReport .abandoned))
      { s with post := { s.post with list := rest }, access := { s.access with flight := s.access.flight.map (Flight.losePosting p.id) } }) rfl
    refine ⟨fl, pt, ?_, ?_, ?_, ?_, ?_, ?_⟩
    · rw [h1]; simp [enqueue, State.onPort]
    · rw [h2]; simp [enqueue, State.onPort]
    · rw [h3]; rfl
    · rw [h4]; rfl
    · rw [h5]; simp [enqueue, State.onPort]; omega
    · intro hh; apply h6; simp [enqueue, State.onPort, hh]

/-- Receipts find nothing in an empty list. -/
theorem takeReceipts_of_no_posting (p : StationNo) (rs : List Receipt) (s : State) (h : s.post.list = []) :
    takeReceipts p rs s = s := by
  unfold takeReceipts
  have : ∀ r, takeReceipt p r s = s := by
    intro r; unfold takeReceipt; split
    · rfl
    · simp [h]
  induction rs with
  | nil => rfl
  | cons r rs ih => simp only [List.foldl_cons, this]; exact ih

/-- With fewer than 256 values in use, the next free one is not among them (R106). -/
theorem nextFree_not_mem (used : List Byte) (c : Byte) (h : used.length < 256) : nextFree used c ∉ used := by
  unfold nextFree
  have : ∃ v ∈ ((List.range 256).map fun k => c + byte k), (fun v => !used.contains v) v = true := by
    by_contra hcon
    push Not at hcon
    have hall : ∀ v : Byte, v ∈ used := by
      intro v
      have := hcon v (by
        simp only [List.mem_map, List.mem_range]
        refine ⟨(v - c).toNat, by omega, ?_⟩
        apply BitVec.eq_of_toNat_eq; simp [byte]; omega)
      simpa using this
    have h1 : (Finset.univ : Finset Byte) ⊆ used.toFinset := by intro v _; simpa using hall v
    have h2 := Finset.card_le_card h1
    have h3 : (Finset.univ : Finset Byte).card = 256 := by
      rw [Finset.card_univ]; 
      exact (Fintype.card_congr (⟨fun x => x.toFin, fun x => ⟨x⟩, fun _ => rfl, fun _ => rfl⟩ : Byte ≃ Fin 256)).trans (by simp)
    have h4 := used.toFinset_card_le
    omega
  obtain ⟨v, hv, hp⟩ := this
  cases hf : ((List.range 256).map fun k => c + byte k).find? (fun v => !used.contains v) with
  | none => rw [List.find?_eq_none] at hf; exact absurd hp (by simpa using hf v hv)
  | some w => have := List.find?_some hf; simpa using this

/-- The id a posting takes is no other posting's (R106). -/
theorem freeId_not_mem (s : State) (h : s.post.list.length < 8) : ∀ q ∈ s.post.list, q.id ≠ s.freeId := by
  intro q hq he
  have := nextFree_not_mem (s.post.list.map Posting.id) s.post.nextId (by simp; omega)
  exact this (by rw [show nextFree (s.post.list.map Posting.id) s.post.nextId = s.freeId from rfl, ← he]; exact List.mem_map_of_mem hq)

/-- As many serials are taken as asked. -/
theorem takeSerials_length : ∀ (n : Nat) (used : List Byte) (c : Byte), (takeSerials used n c).1.length = n
  | 0, _, _ => rfl
  | n + 1, used, c => by simp [takeSerials, takeSerials_length n]

/-- No record fails when none is MALFORMED (R104). -/
theorem recordFault_none : ∀ (l : List CueSpec) (k : Nat), (∀ r ∈ l, r.heldAction ≠ none) → recordFault k l = none
  | [], k, _ => rfl
  | r :: l, k, h => by
    have h1 : r.heldAction.isNone = false := by have := h r (by simp); cases hh : r.heldAction <;> simp_all
    simp [recordFault, h1, recordFault_none l (k+1) (fun x hx => h x (by simp [hx]))]

/-- No serial fails when they are new and no two alike (R105). -/
theorem serialFault_none : ∀ (l used : List Byte) (k : Nat), l.Nodup → (∀ v ∈ l, v ∉ used) → serialFault used k l = none
  | [], _, _, _, _ => rfl
  | a :: l, used, k, h, h2 => by
    have := h2 a (by simp)
    simp [serialFault, this]
    apply serialFault_none l (a :: used) (k+1) (by simp_all)
    intro v hv; simp; constructor
    · rintro rfl; simp_all
    · exact h2 v (by simp [hv])

end Sys2Proof.Machine
end

