-- ==== Sys2Proof/Laws/Period.lean ====
section
/-! SUPPORT. One period expiry: what the evaluation reads and writes, and the roster after the sweep. -/

namespace Sys2Proof.Machine

/-- A usable sample depends on the samples, the roster, the times and the record alone. -/
theorem usableSample_congr (s t : State) (h1 : t.tb.samples = s.tb.samples) (h2 : t.roster = s.roster)
    (h3 : t.tb.localTime = s.tb.localTime) (h4 : t.tb.offset = s.tb.offset) (h5 : t.control = s.control)
    (p : StationNo) : t.usableSample p = s.usableSample p := by
  unfold State.usableSample State.now State.isPresent State.peer? State.entry State.beat
  rw [h1, h2, h3, h4, h5]

/-- An evaluation depends on the samples, the roster, the times, the record and the timebase state alone. -/
theorem evaluation_congr (s t : State) (h1 : t.tb.samples = s.tb.samples) (h2 : t.roster = s.roster)
    (h3 : t.tb.localTime = s.tb.localTime) (h4 : t.tb.offset = s.tb.offset) (h5 : t.control = s.control)
    (h6 : t.tb.tbState = s.tb.tbState) : t.evaluation = s.evaluation := by
  simp only [State.evaluation, h6]
  rw [show t.usableSample = s.usableSample from funext (usableSample_congr s t h1 h2 h3 h4 h5)]

/-- A peer's entry written back depends on the roster alone. -/
theorem setPeer_roster (p : StationNo) (x : Peer) (s t : State) (h : t.roster = s.roster) :
    (setPeer p x t).roster = (setPeer p x s).roster := by
  unfold setPeer
  rw [show t.entry p = s.entry p by simp [State.entry, h]]
  split <;> simp [State.onRoster, h]

/-- The sweep of one entry depends on the roster, local time and the record alone. -/
theorem sweepEntry_roster (s t : State) (p : StationNo) (h : t.roster = s.roster)
    (hl : t.tb.localTime = s.tb.localTime) (hc : t.control = s.control) :
    (sweepEntry t p).roster = (sweepEntry s p).roster := by
  unfold sweepEntry
  rw [show t.peer? p = s.peer? p by simp [State.peer?, State.entry, h],
    show t.beat = s.beat by simp [State.beat, hc], show t.now = s.now by simp [State.now, hl]]
  split
  · exact h
  · split
    · simp [setPeer_roster p _ s t h]
    · simp [makeAbsent, setPeer_roster p _ s t h]
    · simp [makeAbsent, setPeer_roster p _ s t h]
    · exact h

/-- The same over some entries. -/
theorem sweepEntries_roster : ∀ (l : List StationNo) (s t : State), t.roster = s.roster →
    t.tb.localTime = s.tb.localTime → t.control = s.control →
    (l.foldl sweepEntry t).roster = (l.foldl sweepEntry s).roster
  | [], _, _, h, _, _ => h
  | p :: l, s, t, h, hl, hc => by
    simp only [List.foldl_cons]
    exact sweepEntries_roster l _ _ (sweepEntry_roster s t p h hl hc) (by simp [hl]) (by simp [hc])

/-- The roster after a sweep depends on the roster, local time and the record alone. -/
theorem sweep_roster (s t : State) (h : t.roster = s.roster) (hl : t.tb.localTime = s.tb.localTime)
    (hc : t.control = s.control) : (sweep t).roster = (sweep s).roster :=
  sweepEntries_roster _ s t h hl hc

/-- The next period's start does not enter the evaluation after the sweep. -/
theorem evaluation_sweep_nextPeriod (s : State) : (sweep (nextPeriod s)).evaluation = (sweep s).evaluation := by
  apply evaluation_congr
  · simp [nextPeriod, State.onTb]
  · exact sweep_roster _ _ rfl rfl rfl
  · simp [nextPeriod, State.onTb]
  · simp [nextPeriod, State.onTb]
  · simp
  · simp [nextPeriod, State.onTb]

/-- The timebase after an evaluation. -/
theorem evaluate_tb (order : ExpiryOrder) (s : State) (c : ConfigRecord) (hc : s.control.config = some c) :
    (evaluate order s).tb = Timebase.evaluated c s.evaluation s.tb := by
  simp only [evaluate, hc]
  split <;> simp [State.onTb]

/-- The apply step and the transition step do not meet: each field of an evaluated timebase comes from one of them. -/
theorem evaluated_fields (c : ConfigRecord) (e : Evaluation) (t : Timebase) :
    (Timebase.evaluated c e t).tbState = (Timebase.transition c e t).tbState
    ∧ (Timebase.evaluated c e t).agreements = (Timebase.transition c e t).agreements
    ∧ (Timebase.evaluated c e t).disagreements = (Timebase.transition c e t).disagreements
    ∧ (Timebase.evaluated c e t).holdovers = (Timebase.transition c e t).holdovers
    ∧ (Timebase.evaluated c e t).spread = e.spread
    ∧ (Timebase.evaluated c e t).periodStart = t.periodStart
    ∧ (Timebase.evaluated c e t).localTime = t.localTime
    ∧ (Timebase.evaluated c e t).samples = t.samples
    ∧ (Timebase.evaluated c e t).departure = t.departure
    ∧ (Timebase.evaluated c e t).arrival = t.arrival
    ∧ (Timebase.evaluated c e t).offset = (Timebase.apply c e.correction t).offset
    ∧ (Timebase.evaluated c e t).correction = (Timebase.apply c e.correction t).correction := by
  have ha : (Timebase.apply c e.correction t).tbState = t.tbState
    ∧ (Timebase.apply c e.correction t).agreements = t.agreements
    ∧ (Timebase.apply c e.correction t).disagreements = t.disagreements
    ∧ (Timebase.apply c e.correction t).holdovers = t.holdovers
    ∧ (Timebase.apply c e.correction t).periodStart = t.periodStart
    ∧ (Timebase.apply c e.correction t).localTime = t.localTime
    ∧ (Timebase.apply c e.correction t).samples = t.samples ∧ (Timebase.apply c e.correction t).departure = t.departure
    ∧ (Timebase.apply c e.correction t).arrival = t.arrival := by
    unfold Timebase.apply; split <;> (try split) <;> simp
  obtain ⟨a1, a2, a3, a4, a5, a6, a7, a8, a9⟩ := ha
  unfold Timebase.evaluated Timebase.transition
  simp only [a1, a2, a3, a4]
  cases ht : t.tbState <;> simp only [] <;> (repeat' split) <;> simp_all

/-- The entries after one peer's entry was written. -/
theorem peer?_setPeer (p q : StationNo) (x e : Peer) (s : State) (h : s.peer? p = some e) :
    (setPeer p x s).peer? q = if q = p then some x else s.peer? q := by
  have he : s.entry p = .peer e := by
    unfold State.peer? at h; split at h <;> simp_all
  unfold setPeer; rw [he]
  simp only [State.peer?, State.entry, State.onRoster]
  by_cases hq : q = p
  · subst hq; simp
  · simp only [hq, if_false]
    rw [Vector.getElem_set_ne _ _ (by intro hh; exact hq (BitVec.eq_of_toNat_eq hh.symm))]

/-- A peer's entry depends on the roster alone. -/
theorem peer?_congr (s t : State) (h : t.roster = s.roster) (q : StationNo) : t.peer? q = s.peer? q := by
  simp [State.peer?, State.entry, h]

end Sys2Proof.Machine
end

