-- ==== Sys2Proof/Laws/Step.lean ====
section
/-! SUPPORT. What a step can do. -/

namespace Sys2Proof.Machine

variable (s : State)

/-- What beginExchange leaves alone. -/
@[simp] theorem beginExchange_frame  :
    (beginExchange s).pending = s.pending ∧ (beginExchange s).tb = s.tb ∧ (beginExchange s).cues = s.cues
     ∧ (beginExchange s).chans = s.chans ∧ (beginExchange s).marks = s.marks
     ∧ (beginExchange s).roster = s.roster ∧ (beginExchange s).post = s.post
     ∧ (beginExchange s).frames = s.frames ∧ (beginExchange s).access = s.access ∧ (beginExchange s).sig = s.sig
     ∧ (beginExchange s).control = s.control ∧ (beginExchange s).world = s.world
     ∧ (beginExchange s).freeCount = s.freeCount := by
  unfold beginExchange; split <;> simp

/-- The state each command leads to. -/
def after (c : Instr) (s : State) : State :=
  match c with
  | .reset stn rate => resetStation stn rate s
  | .exchangeBegin => beginExchange s
  | .noRequest => answer Reply.nopReply (gather [] s)
  | .short clocked _ => answer (Reply.refusal .short) (gather clocked s)
  | .nop body => bodyless body (answer Reply.nopReply) (gatherRequest 0 body s)
  | .configure body => configure body (gatherRequest 1 body s)
  | .openLine body => bodyless body takeOpen (gatherRequest 2 body s)
  | .close body => bodyless body takeClose (gatherRequest 3 body s)
  | .unmute body => bodyless body takeUnmute (gatherRequest 4 body s)
  | .restart body => bodyless body takeRestart (gatherRequest 5 body s)
  | .post body => post body (gatherRequest 6 body s)
  | .withdraw body => withdraw body (gatherRequest 7 body s)
  | .fetch body => bodyless body takeFetch (gatherRequest 8 body s)
  | .status body => bodyless body takeStatus (gatherRequest 9 body s)
  | .stamp body => bodyless body takeStamp (gatherRequest 10 body s)
  | .roster body => bodyless body takeRoster (gatherRequest 11 body s)
  | .slewStep => slewStep s
  | .periodExpiry order => expirePeriod order s
  | .listenEnd => endListen s
  | .lingerExpiry => expireLinger s
  | .responseWindowExpiry id => expireWindow id s
  | .deadlinePassed id => passDeadline id s
  | .headDue => fireDue s
  | .edgeReached channel => watchEdges channel s
  | .inputEdge channel level => inputEdge channel level s
  | .startEdge => startEdge s
  | .startConfirmation noisy => confirmStart noisy s
  | .glitch => glitch s
  | .characterDelivered char => deliverCharacter char s
  | .gapFound => gapFound s
  | .frameStart => frameStart s
  | .echoCheck readBack => echoCheck readBack s
  | .cutWaitEnd => endCutWait s
  | .receiptsBeatPending => beginReceiptsBeat s
  | .lineHeld => lineHeld s
  | .heldEnd => heldEnd s
  | .unknownRequestCode code body => answer (Reply.refusal .badRequest) (gatherRequest code body s)
  | .firstInputLevel channel level => firstLevel channel level s

/-- Every command completes: it leads to that state, never to a fault or a refusal (log 28). -/
theorem exec_eq (c : Instr) : exec c s = .next (after c s) := by
  cases c <;> rfl

/-- A step with a command waiting. -/
theorem step_front (c : Instr) (rest : List Instr) (h : s.pending = c :: rest) :
    step s = .next (after c { s with pending := rest }) := by
  unfold step
  rw [h]
  exact exec_eq _ c

/-- A step on an empty queue. -/
theorem step_empty (h : s.pending = []) : step s = .next (idle s) := by
  unfold step
  rw [h]

/-- A property that every command and every idle step keeps, and that does not look at the queue, is kept by every
step. -/
theorem step_keeps (P : State → Prop) (hq : ∀ s q, P s → P { s with pending := q })
    (hc : ∀ c s, P s → P (after c s)) (hi : ∀ s, P s → P (idle s)) (t : State) (hs : P s)
    (h : step s = .next t) : P t := by
  cases hp : s.pending with
  | nil =>
    rw [step_empty s hp] at h
    cases h
    exact hi s hs
  | cons c rest =>
    rw [step_front s c rest hp] at h
    cases h
    exact hc c _ (hq s rest hs)

/-- The three things an idle step can do (log 1). -/
theorem idle_cases :
    (∃ e, idle s = (s.onPending fun q => q ++ [e]).onFree (· + 1)) ∨ idle s = takeSampleOfLine s
      ∨ idle s = nextTick s := by
  unfold idle
  split
  · exact Or.inl ⟨_, rfl⟩
  · exact Or.inr (Or.inl rfl)
  · exact Or.inr (Or.inr rfl)

/-- What takeSampleOfLine leaves alone. -/
@[simp] theorem takeSampleOfLine_frame  :
    (takeSampleOfLine s).tb = s.tb ∧ (takeSampleOfLine s).cues = s.cues ∧ (takeSampleOfLine s).chans = s.chans
     ∧ (takeSampleOfLine s).marks = s.marks ∧ (takeSampleOfLine s).roster = s.roster
     ∧ (takeSampleOfLine s).post = s.post ∧ (takeSampleOfLine s).frames = s.frames
     ∧ (takeSampleOfLine s).access = s.access ∧ (takeSampleOfLine s).control = s.control
     ∧ (takeSampleOfLine s).port = s.port ∧ (takeSampleOfLine s).freeCount = s.freeCount := by
  simp [takeSampleOfLine]

/-- What nextTick leaves alone. -/
@[simp] theorem nextTick_frame  :
    (nextTick s).pending = s.pending ∧ (nextTick s).cues = s.cues ∧ (nextTick s).marks = s.marks
     ∧ (nextTick s).roster = s.roster ∧ (nextTick s).post = s.post ∧ (nextTick s).frames = s.frames
     ∧ (nextTick s).control = s.control ∧ (nextTick s).port = s.port ∧ (nextTick s).freeCount = s.freeCount := by
  simp [nextTick]

/-- What takeClose leaves alone. -/
@[simp] theorem takeClose_frame  :
    (takeClose s).pending = s.pending ∧ (takeClose s).sig = s.sig ∧ (takeClose s).world = s.world
     ∧ (takeClose s).freeCount = s.freeCount := by
  simp [takeClose]

/-- What takeUnmute leaves alone. -/
@[simp] theorem takeUnmute_frame  :
    (takeUnmute s).pending = s.pending ∧ (takeUnmute s).tb = s.tb ∧ (takeUnmute s).cues = s.cues
     ∧ (takeUnmute s).chans = s.chans ∧ (takeUnmute s).marks = s.marks ∧ (takeUnmute s).roster = s.roster
     ∧ (takeUnmute s).post = s.post ∧ (takeUnmute s).frames = s.frames ∧ (takeUnmute s).sig = s.sig
     ∧ (takeUnmute s).world = s.world ∧ (takeUnmute s).freeCount = s.freeCount := by
  simp [takeUnmute]

/-- What takeStatus leaves alone. -/
@[simp] theorem takeStatus_frame  :
    (takeStatus s).pending = s.pending ∧ (takeStatus s).tb = s.tb ∧ (takeStatus s).cues = s.cues
     ∧ (takeStatus s).chans = s.chans ∧ (takeStatus s).marks = s.marks ∧ (takeStatus s).roster = s.roster
     ∧ (takeStatus s).post = s.post ∧ (takeStatus s).frames = s.frames ∧ (takeStatus s).access = s.access
     ∧ (takeStatus s).sig = s.sig ∧ (takeStatus s).control = s.control ∧ (takeStatus s).world = s.world
     ∧ (takeStatus s).freeCount = s.freeCount := by
  simp [takeStatus]

/-- What takeStamp leaves alone. -/
@[simp] theorem takeStamp_frame  :
    (takeStamp s).pending = s.pending ∧ (takeStamp s).tb = s.tb ∧ (takeStamp s).cues = s.cues
     ∧ (takeStamp s).chans = s.chans ∧ (takeStamp s).marks = s.marks ∧ (takeStamp s).roster = s.roster
     ∧ (takeStamp s).post = s.post ∧ (takeStamp s).frames = s.frames ∧ (takeStamp s).access = s.access
     ∧ (takeStamp s).sig = s.sig ∧ (takeStamp s).control = s.control ∧ (takeStamp s).world = s.world
     ∧ (takeStamp s).freeCount = s.freeCount := by
  simp [takeStamp]

/-- What takeRoster leaves alone. -/
@[simp] theorem takeRoster_frame  :
    (takeRoster s).pending = s.pending ∧ (takeRoster s).tb = s.tb ∧ (takeRoster s).cues = s.cues
     ∧ (takeRoster s).chans = s.chans ∧ (takeRoster s).marks = s.marks ∧ (takeRoster s).roster = s.roster
     ∧ (takeRoster s).post = s.post ∧ (takeRoster s).frames = s.frames ∧ (takeRoster s).access = s.access
     ∧ (takeRoster s).sig = s.sig ∧ (takeRoster s).control = s.control ∧ (takeRoster s).world = s.world
     ∧ (takeRoster s).freeCount = s.freeCount := by
  simp [takeRoster]

end Sys2Proof.Machine
end

