-- ==== Sys2Proof/WellFormed.lean ====
section
/-! DEFINITION. Which commands can come from outside: the operands a command carries agree with the
event it names. -/

namespace Sys2Proof

/-- R207, 11.5: the body length is one character, so a body holds at most 255. -/
def bodyFits (body : List Byte) : Bool :=
  body.length ≤ 255

/-- R208: what was clocked in is short: a partial character is left (1 to 7 bits), or there are fewer
characters than 2 and the length the second one states; and something was clocked in. -/
def isShort (clocked : List Byte) (partialBits : Nat) : Bool :=
  partialBits ≤ 7 && !(clocked.isEmpty && partialBits == 0) &&
    (partialBits != 0 || match clocked with
      | _ :: len :: _ => clocked.length < 2 + len.toNat
      | _ => true)

/-- The well-formed commands.  The other operands are right at every value their type holds. -/
def Instr.wellFormed : Instr → Bool
  | .short clocked partialBits => isShort clocked partialBits
  | .nop body | .configure body | .openLine body | .close body | .unmute body | .restart body
  | .post body | .withdraw body | .fetch body | .status body | .stamp body | .roster body => bodyFits body
  | .unknownRequestCode code body => decide (11 < code.toNat) && bodyFits body
  | .reset _ _ | .exchangeBegin | .noRequest | .slewStep | .periodExpiry _ | .listenEnd | .lingerExpiry
  | .responseWindowExpiry _ | .deadlinePassed _ | .headDue | .edgeReached _ | .inputEdge _ _ | .startEdge
  | .startConfirmation _ | .glitch | .characterDelivered _ | .gapFound | .frameStart | .echoCheck _
  | .cutWaitEnd | .receiptsBeatPending | .lineHeld | .heldEnd | .firstInputLevel _ _ => true

end Sys2Proof
end

