-- ==== Sys2Proof/Tests/Slice0.lean ====
section
/-! SUPPORT. The tests: the refusals of the well-formedness check, the published check values of the layouts, and for
each statement a state and operands that meet its hypotheses, clause by clause, at the values where clauses meet. -/

open Sys2Proof Sys2Proof.Machine

namespace Sys2Proof.Tests

set_option Elab.async false

/-! ## Well-formed commands -/

theorem test_wellFormed_refuses_a_long_body :
    (Instr.nop (List.replicate 256 0)).wellFormed = false ∧ (Instr.nop (List.replicate 255 0)).wellFormed = true := by
  decide +kernel

theorem test_wellFormed_refuses_a_long_unknown_body :
    (Instr.unknownRequestCode 12 (List.replicate 256 0)).wellFormed = false := by decide +kernel

theorem test_wellFormed_refuses_a_known_code :
    (Instr.unknownRequestCode 11 []).wellFormed = false ∧ (Instr.unknownRequestCode 12 []).wellFormed = true := by
  decide +kernel

theorem test_wellFormed_refuses_a_short_that_is_whole :
    (Instr.short [1, 1, 0] 0).wellFormed = false ∧ (Instr.short [1, 1] 0).wellFormed = true := by decide +kernel

theorem test_wellFormed_refuses_a_short_of_nothing : (Instr.short [] 0).wellFormed = false := by decide +kernel

theorem test_wellFormed_refuses_eight_partial_bits :
    (Instr.short [1] 8).wellFormed = false ∧ (Instr.short [1] 7).wellFormed = true := by decide +kernel

/-! ## Decoding and the CRC -/

theorem test_no_word_spells_a_command (n w : Nat) : decodeTableWord n w = none := rfl

theorem test_crc_check_value :
    crc [0x31, 0x32, 0x33, 0x34, 0x35, 0x36, 0x37, 0x38, 0x39] = 0x29B1 := by decide +kernel

/-! ## Small states -/

/-- A valid record body: group 0, B code 0, J 16, L 4, H 2, threshold 1, linger 1; channel 0 OUTPUT at rest low,
channel 1 INPUT on both edges, 1 microsecond, reported and shared with ALL. -/
def recordBody : List Byte :=
  [1, 0, 0, 16, 0, 4, 2, 0, 1, 1] ++ [1, 0, 0, 0, 0, 0, 0] ++ [2, 0, 2, 0, 1, 1, 32] ++ List.replicate 42 0

/-- PREP, with the record. -/
def prepared : State := after (.configure recordBody) State.reset

/-- LISTEN, at local time 0. -/
def listening : State := after (.openLine []) prepared

/-- The record held. -/
def record : ConfigRecord := configOf recordBody

/-- A station in a state, with the record. -/
def standing (state : StationState) : State :=
  { listening with control := { listening.control with station := state, listenStart := none } }

/-- A station in ACTIVE, with the record. -/
def active : State := standing .active

/-- A posting of one WITHDRAW for all, by its id. -/
def posting (id : Byte) : Posting where
  id := id
  body := .withdraw [id]
  target := .all
  expected := []
  selfVerdicts := none
  sent := 0
  windowEnd := none
  deadline := none
  state := .waiting
  collisions := 0

/-- With some postings in the list. -/
def withPostings (ps : List Posting) (s : State) : State := { s with post := { s.post with list := ps } }

/-- With some reports in the queue. -/
def withReports (n : Nat) (s : State) : State :=
  { s with port := { s.port with queue := List.replicate n { lostBefore := 0, body := .lineHeld 0 } } }

/-- At a local time. -/
def atTime (t : Time) (s : State) : State := { s with tb := { s.tb with localTime := t } }

/-- An OUTPUT channel's state. -/
def restOutput : OutputState := OutputState.atRest false

/-- With channel 0 an OUTPUT in some state. -/
def withOutput (o : OutputState) (s : State) : State := { s with chans := s.chans.set 0 (.output o) }

/-- With channel 1 an INPUT in some state. -/
def withInput (i : InputState) (s : State) : State := { s with chans := s.chans.set 1 (.input i) }

/-- With some held entries. -/
def withHeld (es : List HeldEntry) (s : State) : State := { s with cues := { s.cues with held := es } }

/-- A held entry of station 5 at channel 0, by its serial, action and fire time. -/
def heldEntry (serial : Byte) (action : HeldAction) (fire : Time) : HeldEntry where
  key := { origin := 5, serial := serial }
  channel := 0
  action := action
  report := true
  fire := fire
  path := .line
  installNo := 0

/-- A peer entry in a state, heard at a local time. -/
def peerIn (state : PeerState) (last : Option Time) : Peer :=
  { Peer.cleared with state := state, lastBeat := last, groups := 1 }

/-- With station 5 a peer in some state. -/
def withPeer (e : Peer) (s : State) : State :=
  { s with roster := { s.roster with entries := s.roster.entries.set 5 (.peer e) } }

/-- With a sample of station 5, taken at local time 0. -/
def withSample (value : Time) (state : TbState) (s : State) : State :=
  { s with tb := { s.tb with
      samples := s.tb.samples.set 5 (some { value := value, localTime := 0, offset := 0, reported := state }) } }

/-- With the line access unit changed. -/
def withAccess (f : LineAccess → LineAccess) (s : State) : State := s.onAccess f

/-- A reference at local time 0, GOOD, from a sender. -/
def goodFrom (sender : StationNo) : FrameEndRef where
  endTime := 0
  sender := some sender
  good := true

/-- The BEAT as it is read back. -/
def beatRead : BeatBody where
  tbState := .solo
  leaving := false
  beatCode := 0
  groups := 1
  stamp := 0
  spread := 0

/-! ## The step, reset and the local port -/

theorem witness_StepTakesTheFrontCommand :
    ∃ s : State, s.pending = [.nop [], .fetch []] := ⟨{ State.reset with pending := [.nop [], .fetch []] }, rfl⟩

theorem witness_IdleStepIsTheClock :
    ∃ s : State, s.pending = [] ∧ s.dueEvents = [] ∧ 4 ≤ s.sig.taken
      ∧ (∃ i, s.chan 1 = .input i) ∧ (∀ i, s.chan 0 ≠ .input i) ∧ s.access.receiptsPending = true
      ∧ ¬ ({ s with tb := { s.tb with localTime := s.tb.localTime + 1 } } : State).receiptsBeatHolds :=
  ⟨{ withAccess (fun a => { a with receiptsPending := true }) prepared with sig := { prepared.sig with taken := 4 } },
    rfl, by decide +kernel, by decide, ⟨_, rfl⟩,
    fun _ h => by
      simp [State.chan, withAccess, prepared, recordBody] at h; exact Channel.noConfusion (h.symm.trans rfl),
    rfl, fun h => absurd h.1 (by decide +kernel)⟩

theorem witness_ExchangeBegin :
    State.reset.port.exchange = none ∧ (after .exchangeBegin State.reset).port.exchange ≠ none
      ∧ (after .exchangeBegin State.reset).misoChar 0 = some 10 ∧ (after .exchangeBegin State.reset).misoBit 4 = some true
      ∧ (after .exchangeBegin State.reset).misoBit 5 = some false := by decide +kernel

/-- A character as its bits are clocked in. -/
def bitsOf (chars : List Byte) : List Bool := chars.flatMap clockedBits

theorem test_exchanges_at_their_lengths :
    exchangeOf [] = .noRequest ∧ exchangeOf [true] = .short [] 1 ∧ exchangeOf (bitsOf [8]) = .short [8] 0
      ∧ exchangeOf (bitsOf [7, 2, 3]) = .short [7, 2, 3] 0 ∧ exchangeOf (bitsOf [7, 2, 3, 4]) = .withdraw [3, 4]
      ∧ exchangeOf (bitsOf [7, 2, 3, 4, 5]) = .withdraw [3, 4] ∧ exchangeOf (bitsOf [12, 0]) = .unknownRequestCode 12 []
      ∧ exchangeOf (bitsOf [8, 0] ++ [true]) = .short [8, 0] 1
      ∧ (after (.short [7, 1, 3, 4] 2) State.reset).port.request = [7, 1, 3]
      ∧ (after (.withdraw [3, 4]) State.reset).port.request = [7, 2, 3, 4] := by decide +kernel

theorem witness_UnsoundRequests :
    ([0] : List Byte) ≠ [] ∧ ([0] : List Byte).length ≠ 66 ∧ ¬ soundPost [] ∧ ¬ soundWithdraw [] := by
  refine ⟨by decide, by decide, ?_, ?_⟩ <;> rintro ⟨_, _, _, _, h, _⟩ <;> cases h

/-! ## Configuration, opening and closing -/

theorem witness_Configure :
    recordBody.length = 66 ∧ prepared.control.station = .prep ∧ listening.control.station ≠ .prep := by decide +kernel

theorem witness_Configure_valid : ∀ field, ¬ invalidField recordBody field := by
  intro field h
  simp only [invalidField] at h
  rcases h with ⟨_, h⟩ | ⟨_, h⟩ | ⟨_, h⟩ | ⟨_, h⟩ | ⟨_, h⟩ | ⟨_, h⟩ | ⟨c, hc, h⟩
  · revert h; decide +kernel
  · revert h; decide +kernel
  · revert h; decide +kernel
  · revert h; decide +kernel
  · revert h; decide +kernel
  · revert h; decide +kernel
  · have key : ∀ c < 8, ¬ (2 < (charAt recordBody (11 + 7 * c)).toNat
        ∨ (charAt recordBody (11 + 7 * c)).toNat = 1 ∧ 1 < (charAt recordBody (12 + 7 * c)).toNat
        ∨ (charAt recordBody (11 + 7 * c)).toNat = 2 ∧ (2 < (charAt recordBody (13 + 7 * c)).toNat
          ∨ 1 < (charAt recordBody (16 + 7 * c)).toNat
          ∨ ¬ ((charAt recordBody (17 + 7 * c)).toNat = 0 ∨ 16 ≤ (charAt recordBody (17 + 7 * c)).toNat
            ∧ (charAt recordBody (17 + 7 * c)).toNat ≤ 23 ∨ (charAt recordBody (17 + 7 * c)).toNat = 32))) := by
      decide +kernel
    have := key c hc
    omega

theorem witness_Configure_invalid :
    invalidField (recordBody.set 3 15) 3 ∧ ∀ n < 3, ¬ invalidField (recordBody.set 3 15) n := by
  refine ⟨Or.inr (Or.inl ⟨rfl, by decide +kernel⟩), fun n hn h => ?_⟩
  rcases h with h | h | h | h | h | h | ⟨c, hc, h⟩
  · exact absurd h.2 (by decide +kernel)
  all_goals omega

theorem test_config_field_limits :
    configFault (recordBody.set 3 15) = some 3 ∧ configFault (recordBody.set 5 5) = some 4
      ∧ configFault (recordBody.set 1 6) = some 2 ∧ configFault (recordBody.set 6 0) = some 5
      ∧ configFault (recordBody.set 8 49) = some 7 ∧ configFault (recordBody.set 9 0) = some 8
      ∧ configFault (recordBody.set 10 3) = some 9 ∧ configFault (recordBody.set 11 2) = some 10
      ∧ configFault (recordBody.set 19 3) = some 17 ∧ configFault (recordBody.set 23 33) = some 20 := by
  decide +kernel

theorem witness_Open :
    listening.control.station ≠ .prep ∧ (State.reset.control.station = .prep ∧ State.reset.control.config = none)
      ∧ prepared.control.station = .prep ∧ prepared.control.config ≠ none := by decide +kernel

theorem test_open_reaches_listen :
    listening.control.station = .listen ∧ listening.control.listenStart = some 0
      ∧ listening.port.queue.map Report.body = [.stationState .prep .listen .openLine] := by decide +kernel

theorem witness_UnmuteAndClose :
    (standing .prep).control.station = .prep ∧ (standing .closing).control.station = .closing
      ∧ active.control.station ≠ .muted ∧ (standing .muted).control.station = .muted := by decide +kernel

theorem witness_CloseReachesPrep :
    listening.control.station = .listen ∧ (standing .muted).control.station = .muted
      ∧ listening.control.config = some record ∧ (∃ o, listening.chan 0 = .output o)
      ∧ (∃ i, listening.chan 1 = .input i) ∧ record.modes[0] = .output false
      ∧ listening.port.queue.length + listening.post.list.length + 2 ≤ 48
      ∧ (withReports 46 listening).port.queue.length + listening.post.list.length + 2 ≤ 48 :=
  ⟨by decide +kernel, by decide +kernel, by decide +kernel, ⟨_, rfl⟩, ⟨_, rfl⟩, by decide +kernel, by decide +kernel,
    by decide +kernel⟩

/-- Law 4 of an empty list. -/
theorem law4_of_no_posting (s : State) (h : s.post.list = []) : Law4 s := by simp [Law4, h]

theorem witness_CloseFromActive :
    active.control.station = .active ∧ Law4 active ∧ active.access.flight = none ∧ active.port.queue.length < 48
      ∧ Law4 (withPostings [posting 1, posting 2] active)
      ∧ ∃ f : Flight, (withAccess (fun a => { a with flight := some f }) active).access.flight = some f :=
  ⟨by decide +kernel, law4_of_no_posting _ (by decide +kernel),
    by decide +kernel, by decide +kernel,
    by simp [Law4, withPostings, active, standing, posting, Posting.serials, PostBody.fits],
    ⟨.dueBeat, 0, false, 0, 0⟩, rfl⟩

/-! ## Postings -/

/-- A POST body: one PULSE of width 2 at channel 0 for a target, at a fire time. -/
def postBody (t1 t2 : Byte) (fire : Time) : List Byte :=
  [t1, t2, 1] ++ (0xE0 : Byte) :: bytesOf 6 fire.toNat ++ [0, 0, 2]

/-- The record of that body. -/
def pulseSpec (fire : Option Time) (width : BitVec 24) : CueSpec where
  channel := 0
  action := .pulse
  report := true
  fire := fire
  width := some width
  period := none
  count := none

theorem test_post_body_layout :
    postOf (postBody 2 0 9) = some (.group 0, [pulseSpec (some 9) 2]) ∧ (postBody 2 0 9).length = 13 := by
  decide +kernel

theorem witness_PostAndWithdrawAreRefused :
    soundPost ([3, 0, 1, 0x08] : List Byte) ∧ soundWithdraw [3, 0, 2, 7, 7] ∧ withdrawOf [3, 0, 2, 7, 7] = some (.all, [7, 7])
      ∧ listening.control.station ≠ .active
      ∧ (withPostings (List.replicate 8 (posting 1)) active).post.list.length = 8
      ∧ (withReports 48 active).port.queue.length + active.post.list.length = 48
      ∧ (pulseSpec none 0).heldAction = none ∧ (pulseSpec none 1).heldAction ≠ none
      ∧ postOf ([3, 0, 2, 0x20, 0, 0, 1, 0x20, 0, 0, 0] : List Byte)
          = some (.all, [{ pulseSpec none 1 with report := false }, { pulseSpec none 0 with report := false }])
      ∧ (7 : Byte) ∉ active.carriedSerials ∧ (7 : Byte) ∈ ([7, 7] : List Byte).take 1 := by
  refine ⟨⟨3, 0, 1, [[0x08]], rfl, ?_, ?_, ?_, rfl, ?_⟩, ⟨3, 0, 2, [7, 7], rfl, ?_, ?_, ?_, rfl⟩, ?_⟩
  · exact Or.inr (Or.inr ⟨rfl, rfl⟩)
  · decide
  · decide
  · intro r hr
    simp only [List.mem_singleton] at hr
    subst hr
    exact ⟨0x08, [], rfl, by decide, by decide, by decide⟩
  · exact Or.inr (Or.inr ⟨rfl, rfl⟩)
  · decide
  · decide
  · decide +kernel

theorem witness_PostIsAccepted :
    postOf (postBody 1 5 9) = some (.one 5, [pulseSpec (some 9) 2]) ∧ active.control.station = .active
      ∧ active.post.list.length < 8 ∧ active.port.queue.length + active.post.list.length < 48
      ∧ (pulseSpec (some 9) 2).heldAction ≠ none ∧ active.includesSelf (.one 5) = false
      ∧ earliest active.shared [9] = some 9 ∧ isPassed 9 active.shared = false
      ∧ earliest active.shared [-1] = some (-1) ∧ isPassed (-1) active.shared = true
      ∧ isPassed 0 active.shared = false ∧ earliest active.shared [] = none
      ∧ postOf (postBody 1 0 9) = some (.one active.sig.own, [pulseSpec (some 9) 2])
      ∧ active.includesSelf .all = true ∧ active.includesSelf (.group 0) = true
      ∧ takeSerials [0, 1] 2 0 = ([2, 3], 4) ∧ takeSerials [5, 255] 3 254 = ([254, 0, 1], 2) := by decide +kernel

theorem test_post_to_all_is_settled_here_and_joins :
    let t := after (.post (postBody 3 0 9)) active
    t.post.list.map Posting.selfVerdicts = [some [.held]] ∧ t.cues.held.map HeldEntry.path = [.localPort]
      ∧ (after (.post (postBody 3 0 (-1))) active).post.list = []
      ∧ (after (.post (postBody 1 0 9)) active).post.list = [] := by decide +kernel

theorem witness_WithdrawIsAccepted :
    withdrawOf [1, 5, 1, 7] = some (.one 5, [7]) ∧ withdrawOf [1, 0, 1, 7] = some (.one active.sig.own, [7])
      ∧ withdrawOf [3, 0, 2, 7, 8] = some (.all, [7, 8])
      ∧ active.control.station = .active ∧ active.post.list.length < 8
      ∧ active.port.queue.length + active.post.list.length < 48 ∧ ([7, 8] : List Byte).Nodup
      ∧ (7 : Byte) ∉ active.carriedSerials ∧ active.includesSelf (.one 5) = false
      ∧ (after (.withdraw [3, 0, 2, 7, 8]) active).post.list.map Posting.selfVerdicts = [some [.unknown, .unknown]] := by
  decide +kernel

theorem witness_ReceiptsAndAbsences :
    let asks : Posting := { posting 1 with expected := [{ station := 5, answers := [.none] }], sent := 1 }
    let s := withPostings [asks, { asks with id := 2, body := .withdraw [2], sent := 0 }] active
    let good : Receipt := { key := { origin := active.sig.own, serial := 1 }, verdict := .withdrawn }
    (s.post.list.map Posting.id).Nodup ∧ (s.post.list.flatMap Posting.serials).Nodup
      ∧ good.key.origin = s.sig.own ∧ good.key.serial ∈ asks.serials
      ∧ (takeReceipt 5 good s).post.list.map Posting.id = [2]
      ∧ ((takeReceipt 5 { good with key := { good.key with serial := 2 } } s).post.list.map fun p =>
          p.expected.map Expected.answers) = [[[.none]], [[.given .withdrawn]]]
      ∧ (takeReceipt 5 { good with verdict := .held } s) = s ∧ (takeReceipt 6 good s) = s
      ∧ (takeReceipt 5 { good with key := { origin := 5, serial := 1 } } s) = s
      ∧ (absentNotice 5 s).post.list.map Posting.id = [2] := by decide +kernel

theorem witness_ExpectedSet :
    (∀ p, active.entry p = .self ↔ p = active.sig.own)
      ∧ (withPeer (peerIn .present (some 0)) active).expectedSet (.group 0) 1
          = [{ station := 5, answers := [.none] }]
      ∧ (withPeer (peerIn .silent (some 0)) active).expectedSet .all 1 = []
      ∧ active.expectedSet (.one 5) 1 = [{ station := 5, answers := [.gone] }] := by decide +kernel

/-- A posting that waits for its window to end at local time 10, sent some times. -/
def awaitingPosting (sent : Nat) (deadline : Option Time) : Posting :=
  { posting 1 with state := .awaiting, windowEnd := some 10, sent := sent, deadline := deadline }

theorem witness_ResponseWindowExpires :
    let s := atTime 10 (withPostings [awaitingPosting 3 (some 11)] active)
    s.posting? 1 = some (awaitingPosting 3 (some 11)) ∧ (s.tb.localTime - 10).toNat < 2 ^ 47
      ∧ 1 ≤ ahead 11 s.shared ∧ ahead 11 s.shared ≤ 2 ^ 36 ∧ ahead 10 s.shared = 0
      ∧ (after (.responseWindowExpiry 1) s).post.list.map Posting.state = [.waiting]
      ∧ (after (.responseWindowExpiry 1) (atTime 10 (withPostings [awaitingPosting 4 none] active))).post.list = []
      ∧ (after (.responseWindowExpiry 1) (atTime 10 (withPostings [awaitingPosting 3 (some 10)] active))).post.list
          = [] := by decide +kernel

theorem witness_DeadlinePasses :
    let s := atTime (2 ^ 47 + 1) (withPostings [{ posting 1 with deadline := some 1 }] active)
    let flying := fun kind lost => withAccess (fun a => { a with
      flight := some { kind := kind, collisions := 0, lost := lost, receipts := 0, start := 0 } }) s
    s.posting? 1 = some { posting 1 with deadline := some 1 } ∧ 2 ^ 47 ≤ ahead 1 s.shared
      ∧ s.access.flight = none ∧ s.tb.jumped = false ∧ s.slewDue = false
      ∧ (after (.deadlinePassed 1) s).post.list = []
      ∧ (after (.deadlinePassed 1) (flying .dueBeat false)).post.list = []
      ∧ (after (.deadlinePassed 1) (flying (.posting 1 true) false)).post.list ≠ []
      ∧ (after (.deadlinePassed 1) (atTime 0 s)).post.list ≠ [] := by decide +kernel

/-! ## Reports and attention -/

theorem witness_ReportsAndTheLingerTimer :
    (withReports 47 active).port.queue.length + active.post.list.length < 48
      ∧ 48 ≤ (withReports 48 active).port.queue.length + active.post.list.length
      ∧ active.control.config = some record ∧ active.port.lingerStart = some 0
      ∧ 1000 * record.linger.toNat ≤ ((atTime 1000 active).tb.localTime - 0).toNat
      ∧ (after .lingerExpiry (atTime 1000 active)).port.lingerFlag = true
      ∧ (after .lingerExpiry (atTime 999 active)).port.lingerFlag = false := by decide +kernel

theorem witness_OutputPins :
    let sending := after .frameStart (atTime 300
      (withAccess (fun a => { a with reference := some (goodFrom 31), due := .pending }) active))
    let levels := fun t => (atTime t sending).ltx 0
    sending.lde = true ∧ sending.access.flight.isSome ∧ sending.frames.copy.map (List.take 2) = some [0x9B, 1]
      ∧ [300, 310, 320, 330, 340, 350, 360, 370, 380, 390, 400, 410, 420].map levels
        = [false, true, true, false, true, true, false, false, true, true, false, true, false]
      ∧ levels (300 + 1900) = true ∧ (withOutput { restOutput with level := true } prepared).pinDrive 0 = .driven true
      ∧ prepared.pinDrive 1 = .highImpedance ∧ active.lde = false
      ∧ active.control.config = some record ∧ 1 ≤ record.threshold.toNat ∧ active.lattn = true
      ∧ (after (.fetch []) active).port.queue = [] ∧ (after (.fetch []) active).lattn = false := by decide +kernel

theorem test_fetch_takes_four :
    (after (.fetch []) (withReports 6 active)).port.queue.length = 2
      ∧ (after (.fetch []) (withReports 6 active)).port.holder.body.length = 41 := by decide +kernel

theorem test_status_is_182_characters : (after (.status []) active).port.holder.body.length = 182 := by
  decide +kernel

theorem witness_ReadRequests :
    active.entry 0 = .self ∧ active.peer? 5 = some Peer.cleared
      ∧ (withPeer (peerIn .silent (some 0)) active).peer? 5 = some (peerIn .silent (some 0))
      ∧ (after (.roster []) (withPeer { peerIn .silent (some 0) with reported := some .locked, missed := 258 }
          active)).port.holder.body = [2, 0, 1, 0, 0, 0, 0, 0, 101, 1, 2, 0, 0, 1, 2]
      ∧ (active.statusBlocks.map fun b => b.2.2.length) = [7, 10, 96, 4, 5, 7, 15, 31, 4, 3]
      ∧ (after (.status []) active).port.holder.body = active.statusBlocks.flatMap fun b => b.2.2 := by decide +kernel

theorem test_stamp_and_roster :
    (after (.stamp []) active).port.holder.body = List.replicate 12 0
      ∧ (after (.roster []) active).port.holder.body = [1, 0, 1, 0, 0, 0, 0, 0] := by decide +kernel

/-! ## The timebase -/

/-- A station with a pending correction at local time 1,024. -/
def slewing (p : Int) : State := { active with tb := { active.tb with localTime := 1024, correction := p } }

theorem witness_SlewStep :
    (slewing 1).tb.localTime.toNat % 1024 = 0 ∧ (slewing 1).tb.slewTaken = false
      ∧ (after .slewStep (slewing 1)).shared = 1025 ∧ (after .slewStep (slewing 0)).shared = 1024
      ∧ (after .slewStep (slewing (-1))).shared = 1023
      ∧ (0 : Int) < (slewing 1).tb.correction ∧ (slewing 0).tb.correction = 0 ∧ (slewing (-1)).tb.correction < 0 := by
  decide +kernel

/-- The order a test takes the parts of a period expiry in. -/
def someOrder (sweepFirst : Bool) : ExpiryOrder where
  beatFirst := false
  sweepFirst := sweepFirst
  changeFirst := false
  noticeFirst := 0

/-- ACTIVE at the end of the first period, with a sample of the PRESENT station 5. -/
def periodOver (value : Time) : State :=
  atTime 100000 (withSample value .solo (withPeer (peerIn .present (some 0)) active))

theorem witness_PeriodExpiry :
    (periodOver 34).control.config = some record ∧ (periodOver 34).control.station = .active
      ∧ (periodOver 34).tb.periodStart = some 0
      ∧ beatPeriod record.beatCode ≤ ((periodOver 34).tb.localTime - 0).toNat
      ∧ (periodOver 34).evaluation = { peers := true, correction := 17, spread := 34 }
      ∧ (periodOver 33).evaluation.correction = 16
      ∧ (after (.periodExpiry (someOrder true)) (periodOver 34)).tb.offset = 17
      ∧ (after (.periodExpiry (someOrder false)) (periodOver 33)).tb.offset = 0
      ∧ (after (.periodExpiry (someOrder false)) (periodOver 33)).tb.correction = 16
      ∧ (after (.periodExpiry (someOrder true)) (periodOver 33)).access.due = .pending := by decide +kernel

theorem witness_evaluatesNow : (periodOver 34).evaluatesNow record :=
  ⟨rfl, by decide +kernel, .inl rfl, 0, rfl, by decide +kernel⟩

theorem witness_PeriodExpiry_beatFirst :
    let s := withAccess (fun a => { a with reference := some { goodFrom 31 with endTime := 99700 } }) (periodOver 34)
    let expiry := fun first => Instr.periodExpiry { someOrder true with beatFirst := first }
    let carried := fun u : State => (u.frames.copy.bind lineFrameOf).map LineFrame.body
    let beat := fun state spread => LineBody.beat { beatRead with tbState := state, stamp := 100000, spread := spread }
    s.evaluation.correction = 17 ∧ (after (expiry true) s).access.due = .inFlight ∧ (after (expiry true) s).lde = true
      ∧ carried (after (expiry true) s) = some (beat .solo 0)
      ∧ (after (expiry true) s).tb.tbState = .gathering ∧ (after (expiry true) s).tb.offset = 17
      ∧ carried (after .frameStart (after (expiry false) s))
        = some (.beat { beatRead with tbState := .gathering, stamp := 100017, spread := 34 }) := by decide +kernel

/-- The end of a period on a slew tick, with a width of 1 fired at install before the step, P being 1. -/
def firedBeforeTheStep : State :=
  let s := atTime 3200000 (withSample 34 .solo (withPeer (peerIn .present (some 3190000)) active))
  takeLineRecord 5 { s with tb := { s.tb with correction := 1, periodStart := some 3100000 } }
    { serial := 9, spec := pulseSpec none 1 }

theorem witness_PeriodExpiry_waits :
    let s := firedBeforeTheStep
    let expiry : Instr := .periodExpiry (someOrder true)
    s.stepFixed = true ∧ s.tb.localTime.toNat % 1024 = 0 ∧ s.tb.slewTaken = false ∧ s.pinDrive 0 = .driven false
      ∧ (after expiry s).tb = s.tb ∧ (after expiry (after .slewStep s)).tb.periodStart = some 3200000
      ∧ (takeLineRecord 5 { s with tb := { s.tb with correction := 0 } }
          { serial := 10, spec := pulseSpec none 1 }).pinDrive 0 = .driven true := by decide +kernel

theorem witness_jumpsFrom : jumpsFrom record (periodOver 34).tb.tbState 17 ∧ ¬ jumpsFrom record (periodOver 33).tb.tbState 16 := by
  refine ⟨⟨Or.inl rfl, ?_⟩, fun h => absurd h.2 ?_⟩ <;> decide +kernel

theorem test_period_expiry_reports :
    let s := withPeer (peerIn .present (some (-200001))) (atTime 100000 active)
    let t := withSample 33 .solo (withPeer (peerIn .present (some 0)) (atTime 100000 active))
    s.post.list = [] ∧ ((after (.periodExpiry (someOrder true)) s).port.queue.map Report.body).getLast?
        = some (.rosterChange 5 .present .silent .sweep)
      ∧ ((after (.periodExpiry (someOrder true)) t).port.queue.map Report.body).getLast?
        = some (.timebaseChange .solo .gathering 16 33) := by decide +kernel

theorem test_period_expiry_tells_the_absent_notice :
    let asked := { posting 7 with sent := 1, expected := [{ station := 5, answers := [.none] }] }
    let s := withPostings [asked] (withPeer (peerIn .silent (some (-700001))) (atTime 100000 active))
    let t := fun first => after (.periodExpiry (someOrder first)) s
    let told := fun u : State => (u.port.queue.map Report.body).drop active.port.queue.length
    let done := (asked.markGone 5).doneReport .complete
    told (t true) = [.rosterChange 5 .silent .absent .sweep, .postingDone done] ∧ told (t false) = told (t true)
      ∧ told (s.sweepTells 100000 s) = told (t true) ∧ (t true).post.list = [] := by decide +kernel

/-- What an evaluation found. -/
def found (peers : Bool) (correction : Int) (spread : Count16) : Evaluation where
  peers := peers
  correction := correction
  spread := spread

/-- A timebase in a state with its three counts. -/
def counting (state : TbState) (a d h : Nat) : Timebase :=
  { Timebase.reset with tbState := state, agreements := a, disagreements := d, holdovers := h }

theorem test_transitions_at_their_limits :
    let move := fun e t => (Timebase.transition record e t).tbState
    move (found true 0 0) (counting .solo 0 0 0) = .gathering ∧ move (found false 0 0) (counting .solo 0 0 0) = .solo
      ∧ move (found false 0 0) (counting .gathering 2 0 0) = .solo
      ∧ move (found true 4 4) (counting .gathering 2 0 0) = .locked
      ∧ move (found true 4 4) (counting .gathering 1 0 0) = .gathering
      ∧ Timebase.transition record (found true 5 4) (counting .gathering 2 0 0) = counting .gathering 0 0 0
      ∧ move (found false 0 0) (counting .locked 0 2 0) = .holdover
      ∧ move (found true (-17) 0) (counting .locked 0 2 0) = .gathering
      ∧ Timebase.transition record (found true (-17) 0) (counting .locked 0 1 0) = counting .locked 0 2 0
      ∧ Timebase.transition record (found true 16 9) (counting .locked 0 2 0) = counting .locked 0 0 0
      ∧ move (found true 4 9) (counting .holdover 0 0 1) = .locked
      ∧ move (found true 5 9) (counting .holdover 0 0 1) = .solo
      ∧ Timebase.transition record (found false 0 0) (counting .holdover 0 0 0) = counting .holdover 0 0 1 := by
  decide +kernel

theorem test_pool_trim_and_midpoint :
    poolOf .solo [(5, .gathering)] = { entries := [0, 5], peers := true }
      ∧ poolOf .gathering [(5, .gathering), (7, .holdover)] = { entries := [7], peers := true }
      ∧ poolOf .locked [(5, .gathering), (7, .locked)] = { entries := [0, 7], peers := true }
      ∧ poolOf .holdover [] = { entries := [0], peers := false }
      ∧ trimmed [9, -3, 9, 0] = [0, 9] ∧ trimmed [4, 2, 3] = [2, 3, 4] ∧ midpoint [-3, 0] = -1 := by decide +kernel

theorem witness_SamplesFollowBeats : ∃ s, SamplesFollowBeats s :=
  ⟨State.reset, by decide +kernel, fun p x e h => by
    have : State.reset.tb.samples[(p : StationNo).toNat] = none := by
      simp [State.reset, State.powerOn, Timebase.reset]
    rw [this] at h; exact absurd h (by simp)⟩

theorem witness_ForwardJump :
    let s := withHeld [heldEntry 1 .raise 100001, heldEntry 2 .raise 100017, heldEntry 3 .raise 100018] (periodOver 34)
    let fired := fun (late : Bool) (h : HeldEntry) => ReportBody.cueFired {
      key := h.key
      channel := 0
      path := .line
      installNo := some 0
      fire := some h.fire
      time := 100017
      late := late
      tbState := .gathering }
    let t := after (.periodExpiry (someOrder true)) s
    s.cues.held.length ≤ 64 ∧ (s.cues.held.map HeldEntry.key).Nodup ∧ 0 < s.evaluation.correction ∧ s.tb.stepped = none
      ∧ (∀ p x, s.peer? p = some x → (x.swept s.beat s.tb.localTime).state = x.state)
      ∧ s.port.queue.length + s.post.list.length + 9 + 3 * 2 ≤ 48
      ∧ t.cues.held = [heldEntry 3 .raise 100018] ∧ t.cues.leftBy (heldEntry 1 .raise 0).key = some .fired
      ∧ fired true (heldEntry 1 .raise 100001) ∈ t.port.queue.map Report.body
      ∧ fired false (heldEntry 2 .raise 100017) ∈ t.port.queue.map Report.body := by
  refine ⟨by decide +kernel, by decide +kernel, by decide +kernel, by decide +kernel, ?_, by decide +kernel,
    by decide +kernel, by decide +kernel, by decide +kernel, by decide +kernel⟩
  have key : ∀ p : StationNo, ((withHeld [heldEntry 1 .raise 100001, heldEntry 2 .raise 100017, heldEntry 3 .raise 100018]
      (periodOver 34)).peer? p).all fun x => decide ((x.swept 100000 100000).state = x.state) := by decide +kernel
  intro p x h
  have := key p
  rw [h] at this
  exact of_decide_eq_true this

theorem test_slew_step_before_a_jump_is_settled :
    let s := withHeld [heldEntry 1 .raise 99999] (periodOver 34)
    let t := { s with tb := { s.tb with stepped := some 99999, slewTaken := true } }
    t.slewDue = false ∧ (after (.periodExpiry (someOrder true)) t).cues.held = [] := by decide +kernel

theorem witness_ListenEnds :
    listening.control.station = .listen ∧ listening.control.listenStart = some 0
      ∧ 3 * beatPeriod record.beatCode ≤ ((atTime 300000 listening).tb.localTime - 0).toNat
      ∧ (after .listenEnd (atTime 300000 listening)).control.station = .active
      ∧ (after .listenEnd (atTime 299999 listening)).control.station = .listen := by decide +kernel

/-! ## Cues -/

theorem test_ahead_words_at_their_limits :
    isDue 7 7 = true ∧ isAhead 8 7 = true ∧ isAhead (2 ^ 36) 0 = true ∧ isFar (2 ^ 36 + 1) 0 = true
      ∧ isFar (2 ^ 47 - 1) 0 = true ∧ isPassed (2 ^ 47) 0 = true ∧ isPassed 6 7 = true := by decide +kernel

/-- 64 held entries. -/
def fullTable : List HeldEntry := (List.range 64).map fun n => heldEntry (BitVec.ofNat 8 n) .raise 9

theorem witness_InstallVerdict :
    let key : CueKey := { origin := 5, serial := 99 }
    let left := fun how => { active with cues := { active.cues with recent := [{ key := key, how := how }] } }
    active.installVerdict key (pulseSpec none 0) = .malformed
      ∧ active.installVerdict key { pulseSpec none 1 with channel := 1 } = .noChannel
      ∧ (withHeld [heldEntry 99 .raise 9] active).installVerdict key (pulseSpec none 1) = .duplicate
      ∧ (left .fired).installVerdict key (pulseSpec none 1) = .done
      ∧ (left .withdrawn).installVerdict key (pulseSpec none 1) = .withdrawn
      ∧ active.installVerdict key (pulseSpec (some (2 ^ 47)) 1) = .stale
      ∧ active.installVerdict key (pulseSpec (some (2 ^ 36 + 1)) 1) = .far
      ∧ (withHeld fullTable active).installVerdict key (pulseSpec (some 1) 1) = .full
      ∧ active.installVerdict key (pulseSpec (some (2 ^ 36)) 1) = .held
      ∧ (withHeld fullTable active).installVerdict key (pulseSpec (some 0) 1) = .held
      ∧ (withHeld fullTable active).installVerdict key (pulseSpec none 1) = .held := by decide +kernel

/-- Two due entries and one that is ahead, at shared time 0. -/
def twoDue : State := withHeld [heldEntry 1 .raise 0, heldEntry 2 .flip 0, heldEntry 3 .raise 1] active

theorem witness_HeadDue :
    twoDue.cues.held.length ≤ 64 ∧ (twoDue.cues.held.map HeldEntry.key).Nodup ∧ twoDue.control.station ≠ .prep
      ∧ twoDue.slewDue = false ∧ (heldEntry 1 .raise 0).fire = twoDue.shared
      ∧ (after .headDue twoDue).cues.held = [heldEntry 3 .raise 1]
      ∧ (after .headDue twoDue).pinDrive 0 = .driven false := by decide +kernel

theorem test_cues_of_one_tick_meet_at_their_channel :
    let s := withHeld [heldEntry 1 (.pulse 2) 0, heldEntry 2 .raise 0] active
    (after .headDue s).pinDrive 0 = .driven true
      ∧ ((after .headDue s).port.queue.map Report.body).drop 1 = [
        .cueFired { key := { origin := 5, serial := 1 }, channel := 0, path := .line, installNo := some 0, fire := some 0, time := 0, late := false, tbState := .solo },
        .cueCut { key := { origin := 5, serial := 1 }, channel := 0, completed := 0, count := 1, cutting := some { origin := 5, serial := 2 }, time := 0 },
        .cueFired { key := { origin := 5, serial := 2 }, channel := 0, path := .line, installNo := some 0, fire := some 0, time := 0, late := false, tbState := .solo }] := by
  decide +kernel

/-- A TRAIN in progress on channel 0, low at base, whose next edge is of a kind at a time. -/
def running (kind : EdgeKind) (next : Time) (left : Nat) : OutputState where
  level := kind == .finish
  base := false
  run := .train
  nextTime := some next
  nextEdge := some kind
  left := left
  completed := 1
  origin := some 0
  width := 2
  period := 5
  key := some { origin := 3, serial := 1 }
  report := true

theorem witness_Firing :
    ∀ a ∈ [HeldAction.raise, .lower, .flip, .pulse 1, .train 1 2 2], ∀ o ∈ [restOutput, running .finish 7 1],
      let s := withOutput o (withHeld [heldEntry 1 a 0] active)
      s.control.station ≠ .prep ∧ s.slewDue = false ∧ s.cues.held = [heldEntry 1 a 0]
        ∧ (heldEntry 1 a 0).fire = s.shared ∧ s.chan 0 = .output o
        ∧ (after .headDue s).port.queue.length = s.port.queue.length + (if o.run = .idle then 1 else 2) := by
  decide +kernel

theorem witness_Firing_steppedOver :
    let o := { running .finish 7 1 with run := .idle, nextTime := none }
    let s := withOutput o (withHeld [heldEntry 1 (.train 1 2 2) 4] (atTime 5 active))
    let late := { s with tb := { s.tb with stepped := some 4 } }
    late.slewDue = false ∧ late.tb.stepped = some (heldEntry 1 .raise 4).fire
      ∧ (after .headDue late).chan 0 = .output { running .start 6 1 with
          base := true, level := true, origin := some 4, width := 1, period := 2
          key := some { origin := 5, serial := 1 } } := by decide +kernel

theorem witness_JumpsAtTheChannels :
    let run : OutputState := { running .finish 100005 2 with completed := 3 }
    let s := withOutput run (withHeld [heldEntry 1 (.pulse 2) 100001] (periodOver 34))
    let first : ExpiryOrder := { someOrder true with noticeFirst := 1 }
    let cut := fun (cutting : Option CueKey) (completed : Nat) => ReportBody.cueCut {
      key := { origin := 3, serial := 1 }
      channel := 0
      completed := completed
      count := 5
      cutting := cutting
      time := 100017 }
    s.tb.stepped = none ∧ s.chan 0 = .output run ∧ (ahead 100005 s.shared : Int) < 17
      ∧ cut none 4 ∈ (after (.periodExpiry first) s).port.queue.map Report.body
      ∧ cut (some { origin := 5, serial := 1 }) 3 ∈ (after (.periodExpiry (someOrder true)) s).port.queue.map Report.body
      ∧ (after (.periodExpiry first) s).pinDrive 0 = .driven false
      ∧ (after (.periodExpiry (someOrder true)) s).pinDrive 0 = .driven false
      ∧ (periodOver (-34)).evaluation.correction = -17
      ∧ (after (.periodExpiry first) (withOutput run (periodOver (-34)))).chan 0 = .output run := by decide +kernel

theorem test_late_train_is_cut_at_its_firing :
    let s := withHeld [heldEntry 1 (.train 2 5 3) 100001] (periodOver 34)
    (after (.periodExpiry (someOrder true)) s).port.queue.map Report.body |>.contains (.cueCut {
      key := { origin := 5, serial := 1 }
      channel := 0
      completed := 1
      count := 3
      cutting := none
      time := 100017 }) := by decide +kernel

theorem witness_EachRecordIsSettled :
    let rec1 := fun fire => ({ serial := 9, spec := pulseSpec fire 1 } : CueRecord)
    let key : CueKey := { origin := 5, serial := 9 }
    let slews := { active with tb := { active.tb with localTime := 1024, correction := 1 } }
    active.installVerdict key (pulseSpec (some (-1)) 1) ≠ .held
      ∧ active.installVerdict key (pulseSpec (some 1) 1) = .held ∧ active.installVerdict key (pulseSpec none 1) = .held
      ∧ (pulseSpec none 1).heldAction = some (.pulse 1) ∧ active.chan 0 = .output restOutput
      ∧ (takeLineRecord 5 active (rec1 (some 1))).cues.held.map HeldEntry.key = [key]
      ∧ (takeLineRecord 5 active (rec1 (some 0))).pinDrive 0 = .driven true
      ∧ slews.slewDue = true ∧ (takeLineRecord 5 slews (rec1 none)).pinDrive 0 = .driven false
      ∧ (takeLineRecord 5 active (rec1 none)).access.receipts.map HeldReceipt.verdict = [.held]
      ∧ (takeLineSerial 5 (takeLineRecord 5 active (rec1 (some 1))) 9).cues.leftBy key = some .withdrawn
      ∧ (takeLineSerial 5 active 9).access.receipts.map HeldReceipt.verdict = [.unknown] := by decide +kernel

theorem witness_LeavingJoinsTheRecentKeys :
    let old := (List.range 32).map fun n => ({ key := { origin := 5, serial := BitVec.ofNat 8 n }, how := .fired } : RecentKey)
    let t : CueTable := { held := [], recent := old, installCount := 0 }
    t.recent.length ≤ 32 ∧ (t.recent.map RecentKey.key).Nodup ∧ t.recent.length = 32
      ∧ t.leftBy { origin := 5, serial := 0 } = some .fired ∧ t.leftBy { origin := 6, serial := 0 } = none
      ∧ (t.leave { origin := 5, serial := 0 } .withdrawn).recent.length = 32
      ∧ ({ t with recent := [] } : CueTable).leftBy { origin := 5, serial := 0 } = none := by decide +kernel

/-! ## Pins -/

theorem witness_EdgeWatch :
    ∀ o ∈ [running .finish 7 1, running .finish 7 2, running .start 10 2],
      let s := withOutput o (atTime (o.nextTime.getD 0) active)
      let late := { s with tb := { s.tb with localTime := s.tb.localTime + 1, stepped := o.nextTime } }
      s.control.station ≠ .prep ∧ s.slewDue = false ∧ s.chan 0 = .output o ∧ o.run ≠ .idle
        ∧ o.nextTime = some s.shared ∧ o.origin = some 0
        ∧ (o.afterEdge 0).nextTime ≠ some s.shared ∧ late.tb.stepped = o.nextTime
        ∧ (after (.edgeReached 0) s).pinDrive 0 = .driven (o.nextEdge == some .start)
        ∧ (after (.edgeReached 0) late).chan 0 = (after (.edgeReached 0) s).chan 0 := by decide +kernel

theorem witness_EdgeWatch_twoEdges :
    let o := { running .finish 9 2 with width := 4 }
    let s := withOutput o (atTime 10 active)
    let late := { s with tb := { s.tb with stepped := some 9 } }
    late.slewDue = false ∧ (o.afterEdge 0).nextTime = some late.shared
      ∧ (after (.edgeReached 0) late).chan 0 = .output ((o.afterEdge 0).afterEdge 0) := by decide +kernel

/-- The end of a period on a slew tick, P being 0, with an edge and a held cue on the shared time. -/
theorem test_watches_wait_for_the_step_while_a_period_expiry_is_open :
    let s := withOutput (running .start 3200000 2) (withHeld [heldEntry 1 .raise 3200000] (atTime 3200000 active))
    let open_ := { s with tb := { s.tb with periodStart := some 3100000 } }
    { s with tb := { s.tb with periodStart := some 3200000 } }.slewDue = false ∧ open_.slewDue = true ∧ open_.tb.correction = 0
      ∧ (after (.edgeReached 0) open_).chan 0 = open_.chan 0 ∧ (after .headDue open_).cues.held = open_.cues.held
      ∧ (after (.edgeReached 0) (after .slewStep open_)).pinDrive 0 = .driven true
      ∧ (after .headDue (after .slewStep open_)).cues.held = [] := by decide +kernel

/-- Channel 1's input state at a level, with a window. -/
def inputAt (level : Option Bool) (windowEnd : Option Time) : InputState where
  history := []
  level := level
  windowEnd := windowEnd
  suppressed := 0

/-- Channel 1's settings in the record. -/
def settings : InputSettings where
  sense := .both
  holdoff := 1
  localReport := true
  share := .all

theorem witness_InputEdge :
    let s := withInput (inputAt (some false) (some 0)) active
    s.control.station ≠ .prep ∧ s.chan 1 = .input (inputAt (some false) (some 0))
      ∧ s.inputSettings 1 = some settings ∧ ahead 0 s.shared = 0 ∧ 10 * settings.holdoff.toNat < ahead 11 s.shared
      ∧ (after (.inputEdge 1 true) s).marks.outgoing.length = 1
      ∧ (after (.inputEdge 1 true) (withInput (inputAt (some false) (some 11)) active)).marks.outgoing.length = 1
      ∧ (after (.inputEdge 1 true) (withInput (inputAt (some false) (some 10)) active)).marks.outgoing = [] := by
  decide +kernel

theorem witness_InputLevelsWithoutAMark :
    let first := withInput (inputAt none none) active
    let inside := withInput (inputAt (some false) (some 10)) active
    let inPrep := withInput (inputAt (some false) none) prepared
    first.chan 1 = .input (inputAt none none) ∧ first.inputSettings 1 = some settings
      ∧ (after (.firstInputLevel 1 true) first).chan 1 = .input (inputAt (some true) none)
      ∧ 1 ≤ ahead 1 inside.shared ∧ ahead 10 inside.shared ≤ 10 * settings.holdoff.toNat
      ∧ (after (.inputEdge 1 true) inside).chan 1 = .input { inputAt (some true) (some 10) with suppressed := 1 }
      ∧ inPrep.control.station = .prep ∧ inPrep.inputSettings 1 = some settings
      ∧ (after (.inputEdge 1 true) inPrep).chan 1 = .input (inputAt (some true) none) := by decide +kernel

/-! ## The receiver and received frames -/

theorem witness_StartEdges :
    let checking := after .startEdge active
    checking.sig.history = [false] ∧
    active.sig.phase = .hunting ∧ active.sig.waiting = none ∧ checking.sig.phase = .startCheck
      ∧ (after (.startConfirmation false) checking).access.condition = .receiving
      ∧ (after .glitch checking).sig.glitches = 1 := by decide +kernel

theorem test_start_edge_delivers_the_waiting_character_first :
    let w : WaitingChar := { value := 0x9B, noisy := true, framing := false, startTick := 3, remaining := 2 }
    let s := { active with sig := { active.sig with waiting := some w } }
    let t := after .startEdge s
    s.sig.phase = .hunting ∧ s.access.flight = none ∧ t.sig.phase = .startCheck ∧ t.sig.waiting = none
      ∧ t.frames.assembly.map (fun a => (a.chars, a.leadTick, a.lastEnd)) = some ([0x9B], 3, s.tb.localTime)
      ∧ t.frames.noisy = 1 ∧ t.tb.arrival.map (·.localTime) = some s.tb.localTime
      ∧ after .startEdge t = t := by decide +kernel

/-- The receiver in BITS at the third decision sample of the stop bit of 0xA5, at 10 Mbit/s, its start edge at local time 0. -/
def stopBit : State :=
  let s := { State.reset with sig := { Signalling.reset 0 3 with
    phase := .bits
    startTick := 0
    bits := [false, true, false, true, false, false, true, false, true]
    votes := [true, true]
    history := [true, true, true]
    taken := 3 } }
  atTime 9 s

theorem witness_ReceiverTakesSamples :
    stopBit.sig.bits.length = 9 ∧ (4 * (stopBit.tb.localTime - 0).toNat + 3) - 9 * 4 = 4 / 2 + 1 ∧ 4 / 2 - 2 = 0
      ∧ (∀ j < 8, (0xA5 : Byte).getLsbD j = stopBit.sig.bits.getD (j + 1) false)
      ∧ stopBit.dueEvents = [] ∧ stopBit.sig.taken < 4
      ∧ (idle stopBit).pending = [.characterDelivered
          { value := 0xA5, noisy := false, framing := false, startTick := 0, endTick := 9 }]
      ∧ (idle stopBit).sig.history = [true, true, true] ∧ (idle stopBit).sig.phase = .hunting := by decide +kernel

theorem test_idle_queues_the_event_that_is_due :
    let s := { prepared with tb := { prepared.tb with localTime := 1024, correction := 1 } }
    let t := { s with sig := { s.sig with taken := 4 } }
    t.dueEvents = [.slewStep] ∧ (idle t).pending = [.slewStep] := by decide +kernel

/-- A clean character. -/
def clean (value : Byte) : RxChar where
  value := value
  noisy := false
  framing := false
  startTick := 100
  endTick := 200

/-- The stamp of the lead. -/
def leadStamp : ArrivalStamp where
  shared := 50
  localTime := 50
  offset := 0

/-- A frame in assembly with some characters. -/
def assembled (chars : List Byte) : Assembly where
  chars := chars
  broken := false
  stamp := some leadStamp
  leadTick := 50
  lastEnd := 100

/-- A station with a frame in assembly. -/
def assembling (chars : List Byte) (s : State) : State :=
  { s with frames := { s.frames with assembly := some (assembled chars) } }

theorem witness_CharactersThatEndNoFrame :
    active.access.flight = none ∧ active.frames.assembly = none ∧ (clean 0x9B).framing = false
      ∧ (clean 0x9A).value ≠ 0x9B ∧ ((assembled [0x9B]).append (clean 1)).ends = none
      ∧ (after (.characterDelivered (clean 0x9B)) active).frames.assembly ≠ none
      ∧ (after (.characterDelivered (clean 0x9A)) active).frames.stray = 1 := by decide +kernel

/-- The same part strapped as station 5, in ACTIVE. -/
def stationFive : State := { active with sig := Signalling.reset 5 0 }

/-- The BEAT station 5 sends at shared time 0. -/
def beatFrame : List Byte := stationFive.frameCopy .dueBeat

theorem test_beat_frame_layout :
    beatFrame.take 17 = [0x9B, 1, 5, 0, 11, 0, 0, 0, 1, 0, 0, 0, 0, 0, 0, 0, 0] ∧ beatFrame.length = 19 := by
  decide +kernel

/-- A frame of station 5 with one receipt. -/
def frameOf (body : LineBody) : LineFrame where
  source := 5
  sequence := 2
  body := body
  receipts := [{ key := { origin := 6, serial := 1 }, verdict := .unknown }]

theorem test_frame_layouts :
    let cue := frameOf (.cue (.group 1) [{ serial := 9, spec := pulseSpec none 1 }])
    let withdraw := frameOf (.withdraw (.one 7) [8, 8])
    let reads := fun f : LineFrame => lineFrameOf ((0x9B : Byte) :: f.laidOut ++ [0, 0]) = some f
    cue.laidOut = [2, 5, 2, 7, 1, 2, 1, 9, 0x60, 0, 0, 1, 6, 1, 11] ∧ reads cue
      ∧ withdraw.laidOut = [3, 5, 2, 5, 1, 1, 7, 2, 8, 8, 6, 1, 11] ∧ reads withdraw
      ∧ reads (frameOf (.beat beatRead)) ∧ beatFrame.length = 6 + 11 + 2
      ∧ lineFrameOf [0x9B, 3, 5, 2, 5, 0, 1, 32, 2, 8, 8, 0, 0] = none := by decide +kernel

/-- A header that declares 97 characters. -/
def tooLong : List Byte := [0x9B, 1, 5, 0, 89, 0] ++ List.replicate 90 0

theorem witness_FramesThatEndBad :
    let bad := fun chars value => ((assembled chars).append (clean value)).ends
    bad beatFrame.dropLast 0 = some .lengthReached ∧ bad tooLong 0 = some .overlong
      ∧ lineFrameOf (beatFrame.dropLast ++ [beatFrame.getLastD 0 + 1]) ≠ none
      ∧ crc ((beatFrame.dropLast ++ [beatFrame.getLastD 0 + 1]).drop 1) ≠ 0
      ∧ lineFrameOf ((0x9B : Byte) :: 9 :: beatFrame.dropLast.drop 2 ++ [0]) = none
      ∧ active.sig.phase = .hunting ∧ active.sig.waiting = none
      ∧ ((atTime 250 active).tb.localTime - ((assembled []).lastEnd + BitVec.ofNat 48 (15 * ticksPerBit active.sig.rate))).toNat
          < 2 ^ 47
      ∧ (after .gapFound (atTime 250 (assembling [0x9B] active))).frames.broken = 1
      ∧ (after .gapFound (atTime 249 (assembling [0x9B] active))).frames.broken = 0 := by decide +kernel

/-- A frame that has come but for its last character, which completes it GOOD. -/
theorem completes_of (s : State) (chars : List Byte) (value : Byte) (f : LineFrame) (hf : s.access.flight = none)
    (h : ((assembled chars).append (clean value)).ends = some .lengthReached ∧ lineFrameOf (chars ++ [value]) = some f
      ∧ crc ((chars ++ [value]).drop 1) = 0) : (assembling chars s).completes (clean value) f :=
  ⟨hf, assembled chars, rfl, rfl, rfl, h.1, h.2.1, h.2.2⟩

theorem witness_GoodBeat :
    (assembling beatFrame.dropLast active).completes (clean (beatFrame.getLastD 0))
        { source := 5, sequence := 0, body := .beat beatRead, receipts := [] }
      ∧ active.control.station ≠ .prep ∧ active.control.config = some record ∧ (5 : StationNo) ≠ active.sig.own
      ∧ active.peer? 5 = some Peer.cleared ∧ beatRead.beatCode = record.beatCode :=
  ⟨completes_of _ _ _ _ (by decide +kernel) (by decide +kernel), by decide +kernel, by decide +kernel,
    by decide +kernel, by decide +kernel, by decide +kernel⟩

theorem test_beat_reports :
    let hear := fun (chars : List Byte) (e : Peer) =>
      ((after (.characterDelivered (clean (chars.getLastD 0))) (assembling chars.dropLast (withPeer e active))).port.queue.map
        Report.body).getLast?
    let other := { stationFive with control := { stationFive.control with config := some { record with beatCode := 1 } } }
    hear beatFrame (peerIn .silent (some 0)) = some (.rosterChange 5 .silent .present .beat)
      ∧ hear (stationFive.frameCopy .leavingBeat) (peerIn .present (some 0))
          = some (.rosterChange 5 .present .absent .leaving)
      ∧ hear (stationFive.frameCopy .leavingBeat) Peer.cleared = some (.stationState .prep .listen .openLine)
      ∧ hear (other.frameCopy .dueBeat) Peer.cleared = some (.lineMismatch 5 1 0) := by decide +kernel

theorem test_beat_makes_a_peer_joining_then_present :
    let hear := fun e => ((after (.characterDelivered (clean (beatFrame.getLastD 0)))
      (assembling beatFrame.dropLast (withPeer e active))).peer? 5).map Peer.state
    hear Peer.cleared = some .joining ∧ hear (peerIn .joining (some 50)) = some .present
      ∧ hear (peerIn .joining (some (-200000))) = some .joining ∧ hear (peerIn .silent (some 0)) = some .present := by
  decide +kernel

/-- The CUE frame station 5 sends for one PULSE to all. -/
def cueFrame : List Byte :=
  (withPostings [{ posting 1 with body := .cue [{ serial := 99, spec := pulseSpec (some 9) 2 }] }]
    stationFive).frameCopy (.posting 1 false)

/-- The WITHDRAW frame station 5 sends for one serial to all. -/
def withdrawFrame : List Byte := (withPostings [posting 99] stationFive).frameCopy (.posting 99 true)

/-- A mark of channel 1. -/
def heardMark : MarkRecord where
  seq := 0
  channel := 1
  fall := false
  stamp := 0
  tbState := .solo
  suppressed := 0

/-- The MARK frame station 5 sends for one mark to all, with two marks lost. -/
def markFrame : List Byte :=
  ({ stationFive with marks := {
    nextSeq := 1, outgoing := [{ mark := heardMark, target := .all }], sharedLoss := 2 } } : State).frameCopy (.mark 1 2)

theorem witness_GoodFrames :
    (assembling cueFrame.dropLast active).completes (clean (cueFrame.getLastD 0))
        { source := 5, sequence := 0, body := .cue .all [{ serial := 99, spec := pulseSpec (some 9) 2 }], receipts := [] }
      ∧ (assembling withdrawFrame.dropLast active).completes (clean (withdrawFrame.getLastD 0))
          { source := 5, sequence := 0, body := .withdraw .all [99], receipts := [] }
      ∧ (assembling markFrame.dropLast active).completes (clean (markFrame.getLastD 0))
          { source := 5, sequence := 0, body := .mark .all 2 [heardMark], receipts := [] }
      ∧ active.peer? 5 = some Peer.cleared ∧ (5 : StationNo) ≠ active.sig.own ∧ prepared.control.station = .prep
      ∧ active.control.config = some record ∧ record.groups.getLsbD 0 = true ∧ record.groups.getLsbD 1 = false
      ∧ ((after (.characterDelivered (clean (markFrame.getLastD 0))) (assembling markFrame.dropLast active)).port.queue.map
          Report.body).getLast? = some (.peerMark 5 heardMark 2) :=
  ⟨completes_of _ _ _ _ (by decide +kernel) (by decide +kernel),
    completes_of _ _ _ _ (by decide +kernel) (by decide +kernel),
    completes_of _ _ _ _ (by decide +kernel) (by decide +kernel), by decide +kernel, by decide +kernel,
    by decide +kernel, by decide +kernel, by decide +kernel, by decide +kernel, by decide +kernel⟩

theorem test_cue_frame_is_held_and_receipted :
    let t := after (.characterDelivered (clean (cueFrame.getLastD 0))) (assembling cueFrame.dropLast active)
    t.cues.held.map HeldEntry.fire = [9] ∧ t.access.receipts.map HeldReceipt.verdict = [.held] := by decide +kernel

/-- A BEAT with the own number. -/
def twinFrame : List Byte := active.frameCopy .dueBeat

theorem witness_TwinFrame :
    (assembling twinFrame.dropLast active).completes (clean (twinFrame.getLastD 0))
        { source := 0, sequence := 0, body := .beat beatRead, receipts := [] }
      ∧ (assembling twinFrame.dropLast prepared).completes (clean (twinFrame.getLastD 0))
          { source := 0, sequence := 0, body := .beat beatRead, receipts := [] }
      ∧ (0 : StationNo) = active.sig.own ∧ Law4 (assembling twinFrame.dropLast active)
      ∧ active.control.station ≠ .prep ∧ Law4 (assembling twinFrame.dropLast prepared) ∧ prepared.control.station = .prep
      ∧ (after (.characterDelivered (clean (twinFrame.getLastD 0)))
          (assembling twinFrame.dropLast prepared)).frames.good = 1
      ∧ (after (.characterDelivered (clean (twinFrame.getLastD 0)))
          (assembling twinFrame.dropLast active)).control.station = .muted :=
  ⟨completes_of _ _ _ _ (by decide +kernel) (by decide +kernel),
    completes_of _ _ _ _ (by decide +kernel) (by decide +kernel), by decide +kernel,
    law4_of_no_posting _ (by decide +kernel), by decide +kernel, law4_of_no_posting _ (by decide +kernel),
    by decide +kernel, by decide +kernel, by decide +kernel⟩

/-! ## Sending -/

theorem test_slot_owners_at_the_rounds_ends :
    slotOwner (goodFrom 31) 0 = some 0 ∧ slotOwner (goodFrom 31) 31 = some 31 ∧ slotOwner (goodFrom 31) 32 = some 0
      ∧ slotOwner (FrameEndRef.notGood 0) 31 = none ∧ slotOwner (FrameEndRef.notGood 0) 33 = some 1 := by
  decide +kernel

theorem test_slots_run_on_past_a_round_of_local_time :
    let old := { key := { origin := 5, serial := 1 }, verdict := .held, time := 100 : HeldReceipt }
    let s := atTime 99 (withAccess (fun a => { a with reference := some (goodFrom 31), receipts := [old] }) active)
    let t := nextTick (withAccess (fun a => { a with reference := some { goodFrom 31 with endTime := 100 } }) s)
    (nextTick s).access.reference = some (goodFrom 31) ∧ (nextTick s).access.receipts = [{ old with rounds := 1 }]
      ∧ t.access.reference = some { goodFrom 31 with endTime := 100, rounds := 1 } ∧ t.receiptsOld = true
      ∧ (atTime 44 t).slotBeginning { goodFrom 31 with rounds := 1 } = some (2 ^ 48 / 100 - 3 + 1) := by decide +kernel

/-- ACTIVE at the beginning of slot 0, which it owns, with a due BEAT. -/
def atSlot : State :=
  atTime 300 (withAccess (fun a => { a with reference := some (goodFrom 31), due := .pending }) active)

theorem witness_FrameStart :
    atSlot.control.station = .active ∧ atSlot.access.condition = .clear ∧ atSlot.access.flight = none
      ∧ atSlot.access.reference = some (goodFrom 31)
      ∧ 2 ^ 48 * (goodFrom 31).rounds + (atSlot.tb.localTime - (goodFrom 31).endTime).toNat = (3 + 0) * (10 * ticksPerBit atSlot.sig.rate)
      ∧ slotOwner (goodFrom 31) 0 = some atSlot.sig.own ∧ atSlot.sig.history.head? ≠ some false
      ∧ atSlot.sig.phase ≠ .startCheck
      ∧ (after .frameStart (after .startEdge atSlot)).access.flight = none
      ∧ atSlot.chosen = some .dueBeat ∧ (after .frameStart atSlot).lde = true
      ∧ (after .frameStart (atTime 301 atSlot)).lde = false := by decide +kernel

theorem test_no_start_without_its_conditions :
    let low := { atSlot with sig := { atSlot.sig with history := [false] } }
    (after .frameStart low).lde = false
      ∧ (after .frameStart (withAccess (fun a => { a with condition := .cutWait }) atSlot)).lde = false
      ∧ (after .frameStart (withAccess (fun a => { a with due := .none }) atSlot)).lde = false := by decide +kernel

/-- A mark of channel 1 offered to a target. -/
def offered (target : Target) : OutMark where
  mark := { seq := 0, channel := 1, fall := false, stamp := 0, tbState := .solo, suppressed := 0 }
  target := target

theorem test_mark_frame_carries_the_unbroken_run :
    let carried := fun l => ({ nextSeq := 0, outgoing := l, sharedLoss := 0 } : MarkSide).carried.length
    carried [] = 0 ∧ carried [offered .all, offered .all, offered (.group 1), offered .all] = 2
      ∧ carried (List.replicate 6 (offered .all)) = 6 ∧ carried (List.replicate 7 (offered .all)) = 6 := by decide +kernel

theorem witness_choice :
    let closing := withAccess (fun a => { a with leavingPending := true }) (standing .closing)
    let old := { key := { origin := 5, serial := 1 }, verdict := .held, time := 0 : HeldReceipt }
    let mark : MarkRecord := { seq := 0, channel := 1, fall := false, stamp := 0, tbState := .solo, suppressed := 0 }
    closing.chosen = some .leavingBeat ∧ (withPostings [posting 1] active).chosen = some (.posting 1 true)
      ∧ ({ active with marks := { active.marks with outgoing := [{ mark := mark, target := .all }] } } : State).chosen
          = some (.mark 1 0)
      ∧ (atTime 50001 (withAccess (fun a => { a with receipts := [old], receiptsPending := true }) active)).chosen
          = some .receiptsBeat
      ∧ listening.chosen = none := by decide +kernel

theorem witness_BuiltFrames :
    active.control.config = some record ∧ record.beatCode.toNat ≤ 5
      ∧ (withPostings [posting 1] active).posting? 1 = some (posting 1)
      ∧ (withPostings [{ posting 1 with body := .withdraw [5] }] active).posting? 1
          = some { posting 1 with body := .withdraw [5] }
      ∧ ({ active with marks := { active.marks with outgoing := [{ mark := heardMark, target := .all }] } } : State).marks.outgoing
          = [{ mark := heardMark, target := .all }]
      ∧ (pulseSpec none 1).width.isSome = (pulseSpec none 1).action.usesWidth
      ∧ (pulseSpec none 1).period.isSome = (pulseSpec none 1).action.usesPeriod := by decide +kernel

/-- A station with its due BEAT in flight. -/
def sending : State := after .frameStart atSlot

/-- The same, at the character of an index. -/
def sendingAt (n : Nat) : State := { sending with sig := { sending.sig with echoIndex := n } }

theorem witness_EchoCheck :
    (sending.access.flight.map Flight.kind) = some .dueBeat ∧ sending.frames.copy.map List.length = some 19
      ∧ (sendingAt 18).frames.copy = sending.frames.copy
      ∧ (after (.echoCheck (some { value := 0x9B, noisy := false, framing := false })) sending).sig.echoIndex = 1
      ∧ (after (.echoCheck (some { value := (sending.frames.copy.getD []).getLastD 0, noisy := false, framing := false }))
          (sendingAt 18)).access.flight = none := by decide +kernel

theorem witness_Collisions :
    let cut := after (.echoCheck none) sending
    let eighth := withAccess (fun a => { a with flight := a.flight.map fun f => { f with collisions := 7 } }) sending
    cut.access.condition = .cutWait ∧ cut.access.due = .pending ∧ cut.access.dueCount = 1
      ∧ (after (.echoCheck (some { value := 0x9B, noisy := false, framing := true })) eighth).access.drops = 1 := by decide +kernel

/-- A posting that waits for a receipt of station 3. -/
def asked (id : Byte) : Posting := { posting id with expected := [{ station := 3, answers := [.none] }] }

/-- A mark of channel 1, shared with all. -/
def sharedMark : OutMark where
  mark := { seq := 0, channel := 1, fall := false, stamp := 0, tbState := .solo, suppressed := 0 }
  target := .all

/-- The flight of a kind, in a station that has what the kind needs, at the last character of its copy. -/
def lastOf (station : StationState) (kind : FlightKind) (ps : List Posting) : State :=
  let s := withPostings ps (withAccess (fun a => { a with
    flight := a.flight.map fun f => { f with kind := kind } }) (sendingAt 18))
  { s with
    control := { s.control with station := station }
    marks := { s.marks with outgoing := [sharedMark] } }

/-- The last character of the copy, read back good. -/
def lastBack : ReadBack := { value := (sending.frames.copy.getD []).getLastD 0, noisy := false, framing := false }

/-- The frame in flight has lost its source. -/
def lostSource (s : State) : State :=
  withAccess (fun a => { a with flight := a.flight.map fun f => { f with lost := true } }) s

theorem witness_EchoCheckByKind :
    let echo (s : State) : State := after (.echoCheck (some lastBack)) s
    (echo (lastOf .active (.mark 1 0) [])).marks.outgoing = []
      ∧ (posting 1).answered = true ∧ (asked 1).answered = false
      ∧ (echo (lastOf .active .receiptsBeat [])).access.receiptsCount = 0
      ∧ ((echo (lastOf .active (.posting 1 true) [asked 1])).posting? 1).map Posting.state = some .awaiting
      ∧ (echo (lastOf .active (.posting 1 true) [posting 1])).posting? 1 = none
      ∧ (lastOf .closing .leavingBeat []).control.config = some record
      ∧ (echo (lastOf .closing .leavingBeat [])).control.station = .prep
      ∧ (echo (lostSource (lastOf .active (.posting 1 true) [asked 1]))).posting? 1 = some (asked 1) := by decide +kernel

theorem witness_CollisionsByKind :
    let cut (s : State) : State := after (.echoCheck none) s
    let eighth (s : State) : State :=
      cut (withAccess (fun a => { a with flight := a.flight.map fun f => { f with collisions := 7 } }) s)
    (cut (lastOf .active (.mark 1 0) [])).access.markCount = 1
      ∧ (eighth (lastOf .active (.mark 1 0) [])).marks.sharedLoss = 1
      ∧ ((cut (lastOf .active (.posting 1 true) [asked 1])).posting? 1).map Posting.collisions = some 1
      ∧ (eighth (lastOf .active (.posting 1 true) [asked 1])).post.list = []
      ∧ (cut (lastOf .closing .leavingBeat [])).access.leavingPending = true
      ∧ (eighth (lastOf .closing .leavingBeat [])).control.cause = some .leaveDropped
      ∧ (eighth (lostSource (lastOf .active (.posting 1 true) [asked 1]))).posting? 1 = some (asked 1) := by decide +kernel

theorem witness_CutWaitAndReceiptsBeat :
    let cut := atTime 150 (withAccess (fun a => { a with condition := .cutWait, cutEnd := some 0 }) active)
    let old := { key := { origin := 5, serial := 1 }, verdict := .held, time := 0 : HeldReceipt }
    let s := atTime 50001 (withAccess (fun a => { a with receipts := [old] }) active)
    (cut.tb.localTime - (0 + BitVec.ofNat 48 (15 * ticksPerBit cut.sig.rate))).toNat < 2 ^ 47
      ∧ (after .cutWaitEnd cut).access.condition = .clear
      ∧ (after .cutWaitEnd (atTime 149 cut)).access.condition = .cutWait
      ∧ beatPeriod record.beatCode < 2 * (s.tb.localTime - old.time).toNat ∧ s.pendingPosting = none
      ∧ (after .receiptsBeatPending s).access.receiptsPending = true
      ∧ (after .receiptsBeatPending (atTime 50000 s)).access.receiptsPending = false := by decide +kernel

theorem witness_HeldLine :
    active.sig.found = false ∧ active.access.flight = none ∧ (after .lineHeld active).sig.found = true
      ∧ (after .lineHeld active).access.condition = .held
      ∧ (after .heldEnd (after .lineHeld active)).access.condition = .clear
      ∧ sending.sig.found = false ∧ sending.access.flight ≠ none ∧ (after .lineHeld sending).sig.found = true
      ∧ (after .heldEnd (after .lineHeld sending)).access = sending.access := by decide +kernel

/-! ## The laws -/

theorem witness_laws : ∃ s : State, Law1 s ∧ Law2 s ∧ Law3 s ∧ Law4 s ∧ Law6 s ∧ Law9 s ∧ Law10 s ∧ Law12 s := by
  refine ⟨State.reset, ?_⟩
  simp [Law1, Law2, Law3, Law4, Law6, Law9, Law10, Law12, State.reset, State.powerOn, LocalPort.reset,
    LineAccess.reset, FrameUnit.reset, Timebase.reset, State.chan]

theorem witness_rosterLaws : Law8 State.reset ∧ Law11 State.reset :=
  ⟨by simp [Law8, State.reset, State.powerOn], by decide +kernel, by simp [State.reset, State.powerOn]⟩

theorem witness_aStepStartsAFrame :
    let s := { atSlot with pending := [.frameStart] }
    s.access.flight = none ∧ (after .frameStart { s with pending := [] }).access.flight ≠ none := by decide +kernel

end Sys2Proof.Tests
end

/-! PROOFS. The shared timebase: the transition tables (R19 to R21) and the trim (R16). -/

namespace Sys2Proof.Machine

/-! ### The transition step, one equation for each start state -/

section Transition

variable {c : ConfigRecord} {e : Evaluation} {t : Timebase}

/-- The two rows of SOLO (R19). -/
theorem transition_of_solo (ht : t.tbState = .solo) :
    Timebase.transition c e t = if e.peers = true then { t with tbState := .gathering, agreements := 0 } else t := by
  simp only [Timebase.transition, ht]

/-- The rows of GATHERING (R19): no peer samples, an agreement within L, or none. -/
theorem transition_of_gathering (ht : t.tbState = .gathering) :
    Timebase.transition c e t =
      if e.peers = false then { t with tbState := .solo, agreements := 0 }
      else if e.spread.toNat ≤ c.lock.toNat ∧ e.correction.natAbs ≤ c.lock.toNat then
        if t.agreements < 2 then { t with agreements := t.agreements + 1 }
        else { t with tbState := .locked, agreements := 0, disagreements := 0, holdovers := 0 }
      else { t with agreements := 0 } := by
  have hcount : 3 ≤ t.agreements + 1 ↔ ¬ t.agreements < 2 := by omega
  simp only [Timebase.transition, ht, hcount, ite_not, Bool.not_eq_true']

/-- The rows of LOCKED (R20): no peer samples, a correction beyond 4L, or one within it. -/
theorem transition_of_locked (ht : t.tbState = .locked) :
    Timebase.transition c e t =
      if e.peers = false then { t with tbState := .holdover, holdovers := 0, disagreements := 0 }
      else if 4 * c.lock.toNat < e.correction.natAbs then
        if t.disagreements < 2 then { t with disagreements := t.disagreements + 1 }
        else { t with tbState := .gathering, agreements := 0, disagreements := 0 }
      else { t with disagreements := 0 } := by
  have hcount : 3 ≤ t.disagreements + 1 ↔ ¬ t.disagreements < 2 := by omega
  simp only [Timebase.transition, ht, hcount, ite_not, Bool.not_eq_true']

/-- The rows of HOLDOVER (R21): agreement within L regained, or not and the holdover count against H. -/
theorem transition_of_holdover (ht : t.tbState = .holdover) :
    Timebase.transition c e t =
      if e.peers = true ∧ e.correction.natAbs ≤ c.lock.toNat then
        { t with tbState := .locked, holdovers := 0, agreements := 0, disagreements := 0 }
      else if t.holdovers + 1 < c.holdoverLimit.toNat then { t with holdovers := t.holdovers + 1 }
      else { t with tbState := .solo, holdovers := 0, agreements := 0, disagreements := 0 } := by
  have hcount : c.holdoverLimit.toNat ≤ t.holdovers + 1 ↔ ¬ t.holdovers + 1 < c.holdoverLimit.toNat := by omega
  simp only [Timebase.transition, ht, hcount, ite_not]

/-- An evaluation that finds no peer samples, or a correction beyond L, regains no agreement (R21). -/
theorem not_regained (h : e.peers = false ∨ c.lock.toNat < e.correction.natAbs) :
    ¬ (e.peers = true ∧ e.correction.natAbs ≤ c.lock.toNat) := by
  rintro ⟨hpeers, hsize⟩
  rcases h with hnone | hbeyond
  · simp [hnone] at hpeers
  · omega

end Transition

/-- Settles O26: the equation of each start state, with the premises of each row deciding its branches. -/
theorem transitionsFollowTheTables : Obligations.TransitionsFollowTheTables := by
  intro c e t
  refine ⟨fun ht => ?solo, fun ht => ?gathering, fun ht => ?locked, fun ht => ?holdover⟩
  case solo =>
    rw [transition_of_solo ht]
    exact ⟨fun hpeers => by simp [hpeers], fun hnone => by simp [hnone]⟩
  case gathering =>
    rw [transition_of_gathering ht]
    refine ⟨fun hnone => by simp [hnone], fun hpeers hspread hsize hcount => ?_,
      fun hpeers hspread hsize hcount => ?_, fun hpeers hbeyond => ?_⟩
    · simp [hpeers, hspread, hsize, hcount]
    · simp [hpeers, hspread, hsize, hcount]
    · have hdiffer : ¬ (e.spread.toNat ≤ c.lock.toNat ∧ e.correction.natAbs ≤ c.lock.toNat) := by omega
      simp [hpeers, hdiffer]
  case locked =>
    rw [transition_of_locked ht]
    refine ⟨fun hnone => by simp [hnone], fun hpeers hbeyond hcount => ?_,
      fun hpeers hbeyond hcount => ?_, fun hpeers hwithin => ?_⟩
    · simp [hpeers, hbeyond, hcount]
    · simp [hpeers, hbeyond, hcount]
    · simp [hpeers, Nat.not_lt.mpr hwithin]
  case holdover =>
    rw [transition_of_holdover ht]
    refine ⟨fun hpeers hwithin => by simp [hpeers, hwithin], fun hlost hbelow => ?_, fun hlost hreached => ?_⟩
    · rw [if_neg (not_regained hlost), if_pos hbelow]
    · rw [if_neg (not_regained hlost), if_neg (Nat.not_lt.mpr hreached)]

/-! ### The trim -/

/-- The model's insertion is the library's ordered insertion. -/
theorem insertRising_eq_orderedInsert (x : Int) (l : List Int) : insertRising x l = l.orderedInsert (· ≤ ·) x := by
  induction l with
  | nil => rfl
  | cons y rest ih => rw [insertRising, List.orderedInsert_cons, ih]

/-- The model's sort is the library's insertion sort. -/
theorem rising_eq_insertionSort (entries : List Int) : rising entries = entries.insertionSort (· ≤ ·) := by
  induction entries with
  | nil => rfl
  | cons x rest ih =>
    calc rising (x :: rest) = insertRising x (rising rest) := rfl
      _ = (x :: rest).insertionSort (· ≤ ·) := by
        rw [ih, insertRising_eq_orderedInsert, List.insertionSort_cons]

/-- Sorting keeps every entry, equal ones as often as they stand. -/
theorem rising_perm (entries : List Int) : (rising entries).Perm entries := by
  rw [rising_eq_insertionSort]
  exact List.perm_insertionSort _ _

@[simp] theorem length_rising (entries : List Int) : (rising entries).length = entries.length :=
  (rising_perm entries).length_eq

theorem rising_pairwise (entries : List Int) : (rising entries).Pairwise (· ≤ ·) := by
  rw [rising_eq_insertionSort]
  exact List.pairwise_insertionSort _ _

/-- The number of entries the trim drops at each end of a pool of n (R16). -/
def trimCount (n : Nat) : Nat := (n - 1) / 3

/-- A pool that is not empty has more entries than the trim drops. -/
theorem trimCount_lt {n : Nat} (h : 0 < n) : 2 * trimCount n < n := by
  unfold trimCount
  omega

/-- The smallest entries, which the trim drops. -/
def trimmedLow (entries : List Int) : List Int := (rising entries).take (trimCount entries.length)

/-- The largest entries, which the trim drops. -/
def trimmedHigh (entries : List Int) : List Int :=
  (rising entries).drop (entries.length - trimCount entries.length)

theorem trimmed_eq (entries : List Int) :
    trimmed entries =
      ((rising entries).drop (trimCount entries.length)).take (entries.length - 2 * trimCount entries.length) := rfl

theorem length_trimmed (entries : List Int) :
    (trimmed entries).length = entries.length - 2 * trimCount entries.length := by
  rw [trimmed_eq, List.length_take, List.length_drop, length_rising]
  omega

theorem length_trimmedLow (entries : List Int) : (trimmedLow entries).length = trimCount entries.length := by
  have hle : trimCount entries.length ≤ entries.length := by
    unfold trimCount
    omega
  rw [trimmedLow, List.length_take, length_rising, Nat.min_eq_left hle]

theorem length_trimmedHigh {entries : List Int} (h : entries ≠ []) :
    (trimmedHigh entries).length = trimCount entries.length := by
  have hlt := trimCount_lt (List.length_pos_iff.mpr h)
  rw [trimmedHigh, List.length_drop, length_rising]
  omega

/-- The trim cuts the sorted pool into three: the smallest, the retained and the largest entries. -/
theorem trim_append {entries : List Int} (h : entries ≠ []) :
    trimmedLow entries ++ trimmed entries ++ trimmedHigh entries = rising entries := by
  have hlt := trimCount_lt (List.length_pos_iff.mpr h)
  have hsum : trimCount entries.length + (entries.length - 2 * trimCount entries.length)
      = entries.length - trimCount entries.length := by omega
  rw [trimmedLow, trimmedHigh, trimmed_eq, ← List.take_add, hsum, List.take_append_drop]

/-- Settles O28: the trim cuts the sorted pool in three, and a sorted list is sorted across its cuts. -/
theorem trimDropsAThirdAtEachEnd : Obligations.TrimDropsAThirdAtEachEnd := by
  intro entries hne
  have hsorted : (trimmedLow entries ++ trimmed entries ++ trimmedHigh entries).Pairwise (· ≤ ·) := by
    rw [trim_append hne]
    exact rising_pairwise entries
  obtain ⟨hlower, -, hbelowHigh⟩ := List.pairwise_append.mp hsorted
  obtain ⟨-, hretained, haboveLow⟩ := List.pairwise_append.mp hlower
  refine ⟨length_trimmed entries, hretained, trimmedLow entries, trimmedHigh entries,
    length_trimmedLow entries, length_trimmedHigh hne, ?_, haboveLow, fun x hx => ?_⟩
  · rw [trim_append hne]
    exact rising_perm entries
  · exact hbelowHigh x (List.mem_append_right _ hx)

end Sys2Proof.Machine

/-! PROOFS. Line access: the owners of the slots (R155, R156). -/

namespace Sys2Proof.Machine

/-! ### The owner of a slot, one equation for each row of the table -/

section SlotOwner

variable {ref : FrameEndRef} {k : Nat}

/-- The first round from a GOOD reference rotates from the station after the last sender (R155). -/
theorem slotOwner_of_good {sender : StationNo} (hgood : ref.good = true) (hsender : ref.sender = some sender)
    (hfirst : k < 32) : slotOwner ref k = some (sender + 1 + BitVec.ofNat 5 k) := by
  simp only [slotOwner, if_pos hfirst, hgood, hsender]

/-- A station whose reference is not GOOD stands aside in the first round (R155, R156). -/
theorem slotOwner_of_notGood (hgood : ref.good = false) (hfirst : k < 32) : slotOwner ref k = none := by
  simp only [slotOwner, if_pos hfirst, hgood]

/-- The later rounds have the fixed order, whatever the reference (R155). -/
theorem slotOwner_of_laterRound (hlater : 32 ≤ k) : slotOwner ref k = some (BitVec.ofNat 5 (k - 32)) := by
  rw [slotOwner, if_neg (Nat.not_lt.mpr hlater)]

end SlotOwner

/-- The number of the station a number of places after the one that follows the sender, around the ring of 32. -/
theorem toNat_stationAfter (sender : StationNo) (k : Nat) :
    (sender + 1 + BitVec.ofNat 5 k).toNat = (sender.toNat + 1 + k) % 32 := by
  have hone : (1 : StationNo).toNat = 1 := rfl
  simp only [BitVec.toNat_add, BitVec.toNat_ofNat, hone, Nat.mod_add_mod, Nat.add_mod_mod]

/-- Settles O48: the equation of each row of the owner table, and the station's number read modulo 32. -/
theorem slotOwners : Obligations.SlotOwners := by
  intro ref k
  refine ⟨fun sender hgood hsender hfirst => ?firstRound, slotOwner_of_notGood, fun hlater => ?laterRound⟩
  case firstRound =>
    exact ⟨_, slotOwner_of_good hgood hsender hfirst, toNat_stationAfter sender k⟩
  case laterRound =>
    exact ⟨_, slotOwner_of_laterRound hlater, BitVec.toNat_ofNat (k - 32) 5⟩

end Sys2Proof.Machine

/-! PROOFS. What a step does, as a chain of small changes: every law of the device is checked once for each kind of change. -/

namespace Sys2Proof.Machine

/-! ### The kinds of change -/

/-- A change that no law notices: the tables and lists the laws speak of are kept, or become shorter, a run begins outside
PREP alone, and no frame is started. -/
structure Plain (s t : State) : Prop where
  cues : t.cues = s.cues
  queue : t.port.queue.length ≤ s.port.queue.length
  list : t.post.list = s.post.list
  station : t.control.station = s.control.station
  tbState : t.tb.tbState = s.tb.tbState ∨ s.control.station ≠ .prep
  samples : t.tb.samples = s.tb.samples
  entries : t.roster.entries = s.roster.entries
  own : t.sig.own = s.sig.own
  runs : t.chans = s.chans ∨
    (s.control.station = .prep → ∀ c o, t.chan c = .output o → s.chan c = .output o ∨ o.run = .idle)
  receipts : t.access.receipts.length ≤ receiptCapacity ∨ t.access.receipts.length ≤ s.access.receipts.length
  flight : t.access.flight.map Flight.receipts = s.access.flight.map Flight.receipts ∨ t.access.flight = none
  copy : t.frames.copy = s.frames.copy ∨ t.frames.copy = none

/-- No law requires a run or a settled timebase of a station: what reaching PREP needs (R67, R202). -/
structure State.AtRest (s : State) : Prop where
  tbState : s.tb.tbState = .solo
  runs : ∀ c o, s.chan c = .output o → o.run = .idle

/-- A posting rewritten: the same id and body, and no station expected, and no answer missing, that was not before. -/
structure Posting.Rewrites (p q : Posting) : Prop where
  id : q.id = p.id
  body : q.body = p.body
  expected : ∀ e ∈ q.expected, ∃ d ∈ p.expected, e.station = d.station ∧ (Answer.none ∈ e.answers → Answer.none ∈ d.answers)

/-- A peer's entry rewritten: it does not become ABSENT, and it does not become PRESENT or change its last beat there. -/
structure Peer.Rewrites (e x : Peer) : Prop where
  absent : x.state = .absent → e.state = .absent
  present : x.state = .present → e.state = .present ∧ x.lastBeat = e.lastBeat

/-- The serials of a body. -/
def PostBody.serials : PostBody → List Byte
  | .cue records => records.map CueRecord.serial
  | .withdraw serials => serials

@[simp] theorem Posting.serials_eq (p : Posting) : p.serials = p.body.serials := by
  unfold Posting.serials PostBody.serials
  cases p.body <;> rfl

/-- What the checks of R104 leave of a posting that joins the list (R105 to R107). -/
structure State.MayJoin (s : State) (body : PostBody) : Prop where
  active : s.control.station = .active
  list : s.post.list.length < 8
  room : s.reportSum < 48
  fits : body.fits
  fresh : s.carriedSerials.length ≤ 64 → body.serials.Nodup ∧ ∀ v ∈ body.serials, v ∉ s.carriedSerials

/-- What R33 leaves of a record that is placed in the table (R35). -/
structure State.MayPlace (s : State) (key : CueKey) : Prop where
  notHeld : s.cues.holds key = false
  notRecent : s.cues.leftBy key = none
  room : s.cues.held.length < 64

/-- One change a step makes. -/
inductive Change : State → State → Prop
  | plain {s t : State} : Plain s t → Change s t
  | report (b : ReportBody) (s : State) : Change s (queueReport b s)
  | finish (id : Byte) (o : PostOutcome) (s : State) : Change s (finishPosting id o s)
  | posting {s : State} {p : Posting} (q : Posting) :
      p ∈ s.post.list → p.Rewrites q → Change s (setPosting q s)
  | join {s : State} (body : PostBody) (target : Target) :
      s.MayJoin body → Change s (joinList (s.newPosting s.freeId body target) s)
  | leave (key : CueKey) (how : Departure) (s : State) : Change s (s.onCues (CueTable.leave key how))
  | place {s : State} (path : InstallPath) (key : CueKey) (r : CueSpec) (action : HeldAction) (fire : Time) :
      s.MayPlace key → Change s (placeHeld path key r action fire s)
  | peer {s : State} {p : StationNo} {e : Peer} (x : Peer) :
      s.peer? p = some e → e.Rewrites x → Change s (setPeer p x s)
  | absent {s : State} {p : StationNo} {e : Peer} (x : Peer) (cause : RosterCause) :
      s.peer? p = some e → Change s (makeAbsent p x cause s)
  | sample {s : State} {p : StationNo} (x : Sample) :
      s.isPresent p = false →
      Change s (s.onTb fun t => { t with samples := t.samples.set p.toNat (some x) })
  | beat {s : State} {p : StationNo} {e : Peer} (x : Peer) (y : Sample) :
      s.peer? p = some e → x.state ≠ .absent → x.lastBeat = some y.localTime →
      Change s ((setPeer p x s).onTb fun t => { t with samples := t.samples.set p.toNat (some y) })
  | station {s : State} (f : StationControl → StationControl) :
      ((f s.control).station = .prep → s.AtRest) →
      (s.control.station = .active → (f s.control).station ≠ .active → s.post.list = []) →
      Change s (s.onControl f)
  | clear {s : State} : s.control.station ≠ .active → Change s (clearForPrep s)
  | reset (own : StationNo) (rate : BitVec 2) (s : State) : Change s (resetStation own rate s)
  | restart (s : State) : Change s (restartStation s)

/-- A chain of changes. -/
abbrev Changes : State → State → Prop := Relation.ReflTransGen Change

/-- A property that every change keeps is kept by a chain of them. -/
theorem Changes.keeps {P : State → Prop} (hP : ∀ s t, Change s t → P s → P t) {s t : State} (h : Changes s t)
    (hs : P s) : P t := by
  induction h with
  | refl => exact hs
  | tail _ hc ih => exact hP _ _ hc ih

theorem Plain.changes {s t : State} (h : Plain s t) : Changes s t := Relation.ReflTransGen.single (.plain h)

theorem Change.changes {s t : State} (h : Change s t) : Changes s t := Relation.ReflTransGen.single h

/-- A list of operations that each make changes makes changes, as long as they keep what they need. -/
theorem foldl_changes {α : Type} (Q : State → Prop) (f : State → α → State) (l : List α)
    (h : ∀ u x, x ∈ l → Q u → Changes u (f u x) ∧ Q (f u x)) {s : State} (hs : Q s) :
    Changes s (l.foldl f s) ∧ Q (l.foldl f s) := by
  induction l generalizing s with
  | nil => exact ⟨.refl, hs⟩
  | cons x xs ih =>
    obtain ⟨hfirst, hx⟩ := h s x List.mem_cons_self hs
    obtain ⟨hrest, hq⟩ := ih (fun u y hy => h u y (List.mem_cons_of_mem _ hy)) hx
    exact ⟨hfirst.trans hrest, hq⟩

/-- The same for operations that need nothing. -/
theorem foldl_changes_of_forall {α : Type} (f : State → α → State) (l : List α)
    (h : ∀ u x, Changes u (f u x)) (s : State) : Changes s (l.foldl f s) :=
  (foldl_changes (fun _ => True) f l (fun u x _ _ => ⟨h u x, trivial⟩) trivial).1

end Sys2Proof.Machine

namespace Sys2Proof.Machine

theorem opened_iff (s : State) : s.opened = true ↔ s.control.station ≠ .prep := by simp [State.opened]

@[simp] theorem setChan_chan (c d : ChannelNo) (ch : Channel) (s : State) :
    (setChan c ch s).chan d = if d = c then ch else s.chan d := by
  by_cases h : d = c
  · subst h
    simp [setChan, State.chan]
  · have hne : c.toNat ≠ d.toNat := fun heq => h (BitVec.eq_of_toNat_eq heq.symm)
    simp [setChan, State.chan, h, Vector.getElem_set_ne _ _ hne]

/-! ### Reports and postings -/

theorem queueReport_changes (b : ReportBody) (s : State) : Changes s (queueReport b s) := (Change.report b s).changes

theorem queueReports_changes (bs : List ReportBody) (s : State) : Changes s (queueReports bs s) :=
  foldl_changes_of_forall _ bs (fun u b => queueReport_changes b u) s

theorem finishPosting_changes (id : Byte) (o : PostOutcome) (s : State) : Changes s (finishPosting id o s) :=
  (Change.finish id o s).changes

theorem abandonPostings_changes (s : State) : Changes s (abandonPostings s) :=
  foldl_changes_of_forall _ _ (fun u id => finishPosting_changes id .abandoned u) s

theorem completionTest_changes (id : Byte) (s : State) : Changes s (completionTest id s) := by
  unfold completionTest
  split
  · exact .refl
  · split
    · exact finishPosting_changes _ _ _
    · exact .refl

/-- A posting found by its id is in the list and has that id. -/
theorem posting?_mem {s : State} {id : Byte} {p : Posting} (h : s.posting? id = some p) :
    p ∈ s.post.list ∧ p.id = id :=
  ⟨List.mem_of_find?_eq_some h, by simpa using List.find?_some h⟩

/-- A posting whose expected set is kept is rewritten soundly. -/
theorem Posting.Rewrites.of_expected {p q : Posting} (hid : q.id = p.id) (hbody : q.body = p.body)
    (hexpected : q.expected = p.expected) : p.Rewrites q :=
  ⟨hid, hbody, fun e he => ⟨e, hexpected ▸ he, rfl, fun hnone => hnone⟩⟩

/-- A posting found by its id, written back with its expected set kept. -/
theorem rewrite_changes {s : State} {id : Byte} {p q : Posting} (h : s.posting? id = some p) (hid : q.id = p.id)
    (hbody : q.body = p.body) (hexpected : q.expected = p.expected) : Changes s (setPosting q s) :=
  (Change.posting q (posting?_mem h).1 (.of_expected hid hbody hexpected)).changes

/-- A verdict stored takes no answer away (R116). -/
theorem storeVerdict_rewrites (station : StationNo) (serial : Byte) (v : Verdict) (p : Posting) :
    p.Rewrites (p.storeVerdict station serial v) := by
  refine ⟨rfl, rfl, fun e he => ?_⟩
  obtain ⟨d, hd, rfl⟩ := List.mem_map.mp he
  refine ⟨d, hd, by split <;> rfl, fun hnone => ?_⟩
  split at hnone
  · rw [← List.map_uncurry_zip_eq_zipWith] at hnone
    obtain ⟨⟨x, a⟩, hmem, hval⟩ := List.mem_map.mp hnone
    simp only [Function.uncurry_apply_pair] at hval
    split at hval
    · cases hval
    · exact hval ▸ (List.of_mem_zip hmem).2
  · exact hnone

theorem takeReceipt_changes (receipter : StationNo) (r : Receipt) (s : State) :
    Changes s (takeReceipt receipter r s) := by
  unfold takeReceipt
  split
  · exact .refl
  · split
    · exact .refl
    · next p hp =>
      split
      · exact (Change.posting _ (List.mem_of_find?_eq_some hp) (storeVerdict_rewrites _ _ _ p)).changes.trans
          (completionTest_changes _ _)
      · exact .refl

theorem takeReceipts_changes (receipter : StationNo) (rs : List Receipt) (s : State) :
    Changes s (takeReceipts receipter rs s) :=
  foldl_changes_of_forall _ rs (fun u r => takeReceipt_changes receipter r u) s

theorem sentNotice_changes (id : Byte) (s : State) : Changes s (sentNotice id s) := by
  unfold sentNotice
  split
  · exact .refl
  · next p hp =>
    refine (rewrite_changes hp ?_ ?_ ?_).trans (completionTest_changes _ _) <;> rfl

theorem expireWindow_changes (id : Byte) (s : State) : Changes s (expireWindow id s) := by
  unfold expireWindow
  split
  · exact .refl
  · next p hp =>
    split
    · exact .refl
    · split
      · refine rewrite_changes hp ?_ ?_ ?_ <;> rfl
      · exact finishPosting_changes _ _ _

theorem passDeadline_changes (id : Byte) (s : State) : Changes s (passDeadline id s) := by
  unfold passDeadline
  split
  · exact .refl
  · split
    · exact .refl
    · exact finishPosting_changes _ _ _

/-! ### Channels and cues -/

/-- A channel set outside PREP, or set to one that is not running, is a plain change. -/
theorem setChan_plain (c : ChannelNo) (ch : Channel) (s : State)
    (h : s.control.station = .prep → ∀ o, ch = .output o → o.run = .idle) : Plain s (setChan c ch s) := by
  constructor <;> simp
  right
  intro hprep d o ho
  split at ho
  · exact Or.inr (h hprep o ho)
  · exact Or.inl ho

theorem setChan_changes_of_opened (c : ChannelNo) (ch : Channel) {s : State} (h : s.control.station ≠ .prep) :
    Changes s (setChan c ch s) := (setChan_plain c ch s fun hprep => absurd hprep h).changes

/-- A fix of the slew step is a plain change. -/
theorem fixStep_plain (b : Bool) (s : State) : Plain s (s.fixStep b) := by
  constructor <;> simp [State.fixStep]

theorem fireAtChannel_changes (c : ChannelNo) (a : HeldAction) (k : CueKey) (r : Bool) (t : Option Time)
    (fired : List ReportBody) {s : State} (h : s.control.station ≠ .prep) :
    Changes s (fireAtChannel c a k r t fired s) := by
  unfold fireAtChannel
  split
  · exact ((((fixStep_plain _ s).changes.trans (setChan_changes_of_opened _ _ h)).trans
      (queueReports_changes _ _)).trans (queueReports_changes _ _)).trans (queueReports_changes _ _)
  · exact queueReports_changes _ _
  · exact queueReports_changes _ _

theorem fireCue_changes (k : CueKey) (c : ChannelNo) (a : HeldAction) (r : Bool) (p : InstallPath)
    (n : Option Count16) (t : Option Time) (l : Bool) {s : State} (h : s.control.station ≠ .prep) :
    Changes s (fireCue k c a r p n t l s) :=
  (Change.leave k .fired s).changes.trans (fireAtChannel_changes _ _ _ _ _ _ h)

/-- Held entries that fire one after another outside PREP (R44). -/
theorem fireEntries_changes (late : HeldEntry → Bool) (es : List HeldEntry) {s : State}
    (h : s.control.station ≠ .prep) : Changes s (es.foldl (fun s e => fireEntry (late e) s e) s) :=
  (foldl_changes (fun u => u.control.station ≠ .prep) _ es
    (fun _ _ _ hu => ⟨fireCue_changes _ _ _ _ _ _ _ _ hu, by simpa using hu⟩) h).1

theorem fireDue_changes (s : State) : Changes s (fireDue s) := by
  unfold fireDue
  split
  · next hdue =>
    have hopen : s.control.station ≠ .prep := by
      simp only [State.headDue, Bool.and_eq_true, opened_iff] at hdue
      exact hdue.1.1
    exact fireEntries_changes (fun _ => false) _ hopen
  · exact .refl

/-- The edge watch works outside PREP (R60). -/
theorem opened_of_edgeReached {s : State} {c : ChannelNo} (h : s.edgeReached c = true) : s.control.station ≠ .prep := by
  unfold State.edgeReached at h
  split at h
  · simp only [Bool.and_eq_true, opened_iff] at h
    exact h.1.1.1
  · cases h
  · cases h

theorem takeReachedEdge_changes (c : ChannelNo) (s : State) : Changes s (takeReachedEdge c s) := by
  unfold takeReachedEdge
  split
  · split
    · next hreached => exact setChan_changes_of_opened _ _ (opened_of_edgeReached hreached)
    · exact .refl
  · exact .refl
  · exact .refl

theorem watchEdges_changes (c : ChannelNo) (s : State) : Changes s (watchEdges c s) :=
  (takeReachedEdge_changes c s).trans (takeReachedEdge_changes c _)

theorem noticeAtChannel_changes (before after : Time) (n : Nat) (c : ChannelNo) {s : State}
    (h : s.control.station ≠ .prep) : Changes s (noticeAtChannel before after n s c) := by
  unfold noticeAtChannel
  split
  · split
    · exact .refl
    · exact .refl
    · split
      · exact (setChan_changes_of_opened _ _ h).trans (queueReports_changes _ _)
      · exact .refl
  · exact .refl
  · exact .refl

theorem noticeChannels_changes (which : ChannelNo → Bool) (before after : Time) (n : Nat) {s : State}
    (h : s.control.station ≠ .prep) : Changes s (noticeChannels which before after n s) :=
  (foldl_changes (fun u => u.control.station ≠ .prep) _ _
    (fun _ _ _ hu => ⟨noticeAtChannel_changes _ _ _ _ hu, by simpa using hu⟩) h).1

theorem takeSteppedEdge_changes (c : ChannelNo) (s : State) : Changes s (takeSteppedEdge s c) := by
  unfold takeSteppedEdge
  split
  · split
    · exact watchEdges_changes _ _
    · exact .refl
  · exact .refl
  · exact .refl

theorem settleStepped_changes (s : State) : Changes s (settleStepped s) := by
  have hedges := foldl_changes_of_forall _ channelNumbers (fun u c => takeSteppedEdge_changes c u) s
  unfold settleStepped
  simp only []
  split
  · exact hedges.trans (fireDue_changes _)
  · exact hedges

theorem fireJumped_changes (before after : Time) (n : Nat) {s : State} (h : s.control.station ≠ .prep) :
    Changes s (fireJumped before after n s) := fireEntries_changes (fun e => e.fire != after) _ h

theorem jumpNotice_changes (noticeFirst : BitVec 8) (before after : Time) (correction : Int) {s : State}
    (h : s.control.station ≠ .prep) : Changes s (jumpNotice noticeFirst before after correction s) := by
  unfold jumpNotice
  split
  · exact ((noticeChannels_changes _ _ _ _ h).trans (fireJumped_changes _ _ _ (by simpa using h))).trans
      (noticeChannels_changes _ _ _ _ (by simpa using h))
  · exact .refl

theorem appendReceipt_plain (key : CueKey) (v : Verdict) (s : State) : Plain s (appendReceipt key v s) := by
  unfold appendReceipt
  split
  · next hroom =>
    constructor <;> simp
    omega
  · constructor <;> simp

/-- A record whose verdict is HELD and whose fire time is not due may be placed (R33, R35). -/
theorem mayPlace_of_held {s : State} {key : CueKey} {r : CueSpec} {fire : Time}
    (hverdict : s.installVerdict key r = .held) (hfire : r.fire = some fire) (hdue : isDue fire s.shared = false) :
    s.MayPlace key := by
  unfold State.installVerdict at hverdict
  split at hverdict
  · cases hverdict
  · split at hverdict
    · cases hverdict
    · split at hverdict
      · cases hverdict
      · next hheld =>
        split at hverdict
        · cases hverdict
        · cases hverdict
        · next hrecent =>
          refine ⟨by simpa using hheld, hrecent, ?_⟩
          simp only [State.timeVerdict, hfire, isPassed, isFar, isAhead, cueCapacity, horizon] at hverdict
          simp only [isDue] at hdue
          by_contra hfull
          have hheldFull : 64 ≤ s.cues.held.length := by omega
          grind

theorem settleHeld_changes (path : InstallPath) (key : CueKey) (r : CueSpec) (action : HeldAction) {s : State}
    (hverdict : s.installVerdict key r = .held) (h : s.control.station ≠ .prep) :
    Changes s (settleHeld path key r action s) := by
  unfold settleHeld
  split
  · next fire hfire =>
    split
    · exact fireCue_changes _ _ _ _ _ _ _ _ h
    · next hdue => exact (Change.place path key r action fire (mayPlace_of_held hverdict hfire (by simpa using hdue))).changes
  · exact fireCue_changes _ _ _ _ _ _ _ _ h

theorem settleRecord_changes (path : InstallPath) (origin : StationNo) (r : CueRecord) {s : State}
    (h : s.control.station ≠ .prep) : Changes s (settleRecord path origin r s) := by
  unfold settleRecord
  split
  · next action hverdict _ => exact settleHeld_changes _ _ _ _ hverdict h
  · exact .refl

theorem takeCues_changes (origin : StationNo) (records : List CueRecord) {s : State} (h : s.control.station ≠ .prep) :
    Changes s (takeCues origin records s) :=
  (foldl_changes (fun u => u.control.station ≠ .prep) _ records
    (fun _ _ _ hu => ⟨(settleRecord_changes _ _ _ hu).trans (appendReceipt_plain _ _ _).changes, by simpa using hu⟩) h).1

theorem installLocal_changes (own : StationNo) (records : List CueRecord) {s : State} (h : s.control.station ≠ .prep) :
    Changes s (installLocal own records s).1 := by
  induction records generalizing s with
  | nil => exact .refl
  | cons r rest ih => exact (settleRecord_changes _ _ _ h).trans (ih (by simpa using h))

theorem settleSerial_changes (key : CueKey) (s : State) : Changes s (settleSerial key s) := by
  unfold settleSerial
  split
  · exact (Change.leave _ _ _).changes
  · exact .refl

theorem takeWithdrawals_changes (origin : StationNo) (serials : List Byte) (s : State) :
    Changes s (takeWithdrawals origin serials s) :=
  foldl_changes_of_forall _ serials
    (fun u _ => (settleSerial_changes _ u).trans (appendReceipt_plain _ _ _).changes) s

theorem withdrawLocal_changes (own : StationNo) (serials : List Byte) (s : State) :
    Changes s (withdrawLocal own serials s).1 := by
  induction serials generalizing s with
  | nil => exact .refl
  | cons v rest ih => exact (settleSerial_changes _ s).trans (ih _)

end Sys2Proof.Machine

namespace Sys2Proof.Machine

/-! ### The timebase and the roster -/

/-- The timebase may change its state outside PREP. -/
theorem onTb_changes_of_opened (f : Timebase → Timebase) {s : State} (hsamples : (f s.tb).samples = s.tb.samples)
    (h : s.control.station ≠ .prep) : Changes s (s.onTb f) := by
  apply Plain.changes
  constructor <;> simp [hsamples, h]

theorem announce_changes (order : ExpiryOrder) (changes : List ReportBody) (jumps : Bool) (before after : Time)
    (correction : Int) {s : State} (h : s.control.station ≠ .prep) :
    Changes s (announce order changes jumps before after correction s) := by
  unfold announce
  simp only []
  split
  · split
    · exact (queueReports_changes _ _).trans (jumpNotice_changes _ _ _ _ (by simpa using h))
    · exact queueReports_changes _ _
  · split
    · exact (jumpNotice_changes _ _ _ _ h).trans (queueReports_changes _ _)
    · exact queueReports_changes _ _

theorem evaluate_changes (order : ExpiryOrder) {s : State} (h : s.control.station ≠ .prep) :
    Changes s (evaluate order s) := by
  unfold evaluate
  split
  · exact .refl
  · next c _ =>
    simp only []
    have hsettled : Changes s (if c.jumps s.tb.tbState s.evaluation.correction then settleStepped s else s) := by
      split
      · exact settleStepped_changes s
      · exact .refl
    refine (hsettled.trans (onTb_changes_of_opened _ ?_ ?_)).trans (announce_changes _ _ _ _ _ _ ?_)
    · obtain ⟨-, -, -, -, -, -, -, hsamples, -⟩ := evaluated_fields c s.evaluation
        (if c.jumps s.tb.tbState s.evaluation.correction then settleStepped s else s).tb
      exact hsamples
    · split <;> simpa using h
    · split <;> simpa using h

theorem peer_changes {s : State} {p : StationNo} {e x : Peer} (he : s.peer? p = some e) (h : e.Rewrites x) :
    Changes s (setPeer p x s) := (Change.peer x he h).changes

theorem sequenceCheck_changes (p : StationNo) (seq : Byte) (s : State) : Changes s (sequenceCheck p seq s) := by
  unfold sequenceCheck
  split
  · next e he =>
    refine peer_changes he ?_
    unfold Peer.takeSequence
    split <;> exact ⟨id, fun hp => ⟨hp, rfl⟩⟩
  · exact .refl

theorem sweepEntry_changes (p : StationNo) (s : State) : Changes s (sweepEntry s p) := by
  unfold sweepEntry
  split
  · exact .refl
  · next e he =>
    split
    · exact (peer_changes he ⟨by simp, by simp⟩).trans (queueReport_changes _ _)
    · exact (Change.absent e .sweep he).changes
    · exact (Change.absent e .sweep he).changes
    · exact .refl

theorem sweep_changes (s : State) : Changes s (sweep s) :=
  foldl_changes_of_forall _ _ (fun u p => sweepEntry_changes p u) s

/-- A report and a change of the timebase that keeps local time do not meet. -/
theorem queueReport_onTb (r : ReportBody) (f : Timebase → Timebase) (s : State)
    (h : (f s.tb).localTime = s.tb.localTime) : queueReport r (s.onTb f) = (queueReport r s).onTb f := by
  have hsum : (s.onTb f).reportSum = s.reportSum := rfl
  unfold queueReport
  rw [hsum]
  split
  · simp [enqueue, State.onTb, State.onPort, State.now, h]
  · rfl

theorem queueReports_onTb (rs : List ReportBody) (f : Timebase → Timebase) (s : State)
    (h : (f s.tb).localTime = s.tb.localTime) : queueReports rs (s.onTb f) = (queueReports rs s).onTb f := by
  induction rs generalizing s with
  | nil => rfl
  | cons r rest ih =>
    simp only [queueReports, List.foldl_cons] at ih ⊢
    rw [queueReport_onTb r f s h, ih _ (by simpa using h)]

/-- Write a sample in its slot (R10). -/
def writeSample (p : StationNo) (x : Sample) (s : State) : State :=
  s.onTb fun t => { t with samples := t.samples.set p.toNat (some x) }

/-- The conditions of a sample: outside PREP, from another station, under the own code (R11). -/
def State.takesSample (s : State) (p : StationNo) (b : BeatBody) (c : ConfigRecord) : Prop :=
  s.control.config = some c ∧ s.control.station ≠ .prep ∧ p ≠ s.sig.own ∧ b.beatCode = c.beatCode

theorem takeSample_of_takes {s : State} {p : StationNo} {b : BeatBody} {c : ConfigRecord} (a : ArrivalStamp)
    (h : s.takesSample p b c) : takeSample p b a s = writeSample p (sampleOf c.lineDelay b.stamp a b.tbState) s := by
  obtain ⟨hc, hopen, hother, hcode⟩ := h
  unfold takeSample writeSample
  rw [hc]
  exact if_pos ⟨(opened_iff s).mpr hopen, hother, hcode⟩

theorem takeSample_of_not {s : State} {p : StationNo} {b : BeatBody} (a : ArrivalStamp)
    (h : ∀ c, ¬ s.takesSample p b c) : takeSample p b a s = s := by
  unfold takeSample
  split
  · rfl
  · next c hc => exact if_neg fun ⟨hopen, hother, hcode⟩ => h c ⟨hc, (opened_iff s).mp hopen, hother, hcode⟩

/-- What setPeer writes is what stands there, when the entry is a peer's. -/
theorem peer?_setPeer_self {s : State} {p : StationNo} {e : Peer} (x : Peer) (he : s.peer? p = some e) :
    (setPeer p x s).peer? p = some x := by
  rw [peer?_setPeer p p x e s he]
  simp

@[simp] theorem peer?_queueReport (b : ReportBody) (s : State) (p : StationNo) :
    (queueReport b s).peer? p = s.peer? p := peer?_congr _ _ (by simp) p

@[simp] theorem peer?_absentNotice (q : StationNo) (s : State) (p : StationNo) :
    (absentNotice q s).peer? p = s.peer? p := peer?_congr _ _ (by simp) p

theorem takeBeat_not_absent (e : Peer) (beat : Nat) (b : BeatBody) (heardAt : Time) :
    (e.takeBeat beat b heardAt).state ≠ .absent := by
  simp only [Peer.takeBeat, Peer.afterBeat]
  cases e.state <;> simp
  split <;> simp

/-- A peer made ABSENT stands as such. -/
theorem peer?_makeAbsent {s : State} {p : StationNo} {e : Peer} (x : Peer) (cause : RosterCause)
    (he : s.peer? p = some e) : (makeAbsent p x cause s).peer? p = some x.toAbsent := by
  rw [makeAbsent, peer?_absentNotice, peer?_queueReport, peer?_setPeer_self _ he]

/-- A sample from a station the roster does not show PRESENT. -/
theorem takeSample_changes (p : StationNo) (b : BeatBody) (a : ArrivalStamp) {s : State} (h : s.isPresent p = false) :
    Changes s (takeSample p b a s) := by
  by_cases htakes : ∃ c, s.takesSample p b c
  · obtain ⟨c, hc⟩ := htakes
    rw [takeSample_of_takes a hc]
    exact (Change.sample _ h).changes
  · rw [takeSample_of_not a (not_exists.mp htakes)]

/-- A matching BEAT, which another station sent, at the roster and the sample table: the sample of a PRESENT peer is taken
with its last matching BEAT (R10, R88). -/
theorem matchingBeat_changes (p : StationNo) (b : BeatBody) (a : ArrivalStamp) {s : State} {c : ConfigRecord} {e : Peer}
    (he : s.peer? p = some e) (htakes : s.takesSample p b c) :
    Changes s (takeSample p b a (matchingBeat p e b a.localTime s)) := by
  unfold matchingBeat
  split
  · split
    · next habsent =>
      refine .trans (peer_changes (x := { e with mismatch := false }) he ⟨id, fun hp => ⟨hp, rfl⟩⟩)
        (takeSample_changes _ _ _ ?_)
      simp [State.isPresent, peer?_setPeer_self _ he, habsent]
    · refine (Change.absent _ .leaving he).changes.trans (takeSample_changes _ _ _ ?_)
      simp [State.isPresent, peer?_makeAbsent _ _ he, Peer.toAbsent, Peer.cleared]
  · obtain ⟨hc, hopen, hother, hcode⟩ := htakes
    rw [takeSample_of_takes (c := c) a ⟨by simpa using hc, by simpa using hopen, by simpa using hother, hcode⟩,
      writeSample, ← queueReports_onTb _ _ _ rfl]
    have hlast : (e.takeBeat s.beat b a.localTime).lastBeat = some (sampleOf c.lineDelay b.stamp a b.tbState).localTime := rfl
    exact .trans (Change.beat _ _ he (takeBeat_not_absent e _ b _) hlast).changes (queueReports_changes _ _)

/-- A BEAT at the roster and the sample table, as one event (R143). -/
theorem beat_changes (p : StationNo) (b : BeatBody) (a : ArrivalStamp) {s : State} (hp : p ≠ s.sig.own) :
    Changes s (takeSample p b a (rosterBeat p b a.localTime s)) := by
  unfold rosterBeat
  split
  · next c e hc he =>
    split
    · next hclosed =>
      rw [takeSample_of_not a fun c ⟨_, hopen, _⟩ => absurd ((opened_iff s).mpr hopen) (by simpa using hclosed)]
    · next hopen =>
      have hopen : s.control.station ≠ .prep := (opened_iff s).mp (by simpa using hopen)
      split
      · next hcode => exact matchingBeat_changes p b a he ⟨hc, hopen, hp, hcode⟩
      · next hcode =>
        rw [takeSample_of_not a fun d ⟨hd, _, _, h⟩ => hcode (by simp_all)]
        unfold mismatchedBeat
        split
        · exact .refl
        · exact .trans (peer_changes (x := { e with mismatch := true }) he ⟨id, fun hp => ⟨hp, rfl⟩⟩)
            (queueReport_changes _ _)
  · next hnone =>
    by_cases htakes : ∃ c, s.takesSample p b c
    · obtain ⟨c, hc, hrest⟩ := htakes
      have hpeer : s.peer? p = none := by
        cases he : s.peer? p with
        | none => rfl
        | some e => exact absurd he (hnone c e hc)
      exact takeSample_changes _ _ _ (by simp [State.isPresent, hpeer])
    · rw [takeSample_of_not a (not_exists.mp htakes)]

end Sys2Proof.Machine

namespace Sys2Proof.Machine

/-! ### Station control -/

/-- The station takes another state and reports it: in PREP it is at rest, and it leaves ACTIVE with no posting. -/
theorem setStation_changes (new : StationState) (cause : Cause) {s : State} (hprep : new = .prep → s.AtRest)
    (hlist : s.control.station = .active → new ≠ .active → s.post.list = []) : Changes s (setStation new cause s) :=
  .trans (Change.station (fun c => { c with station := new, cause := some cause }) hprep hlist).changes
    (queueReport_changes _ _)

/-- Every posting is abandoned (R120). -/
@[simp] theorem abandonPostings_list (s : State) : (abandonPostings s).post.list = [] := by
  obtain ⟨flight, port, heq, -⟩ := abandonAll_spec s.post.list s rfl
  rw [abandonPostings, heq]

@[simp] theorem withdrawSource_receipts (f : Flight) : f.withdrawSource.receipts = f.receipts := by
  unfold Flight.withdrawSource
  split <;> rfl

@[simp] theorem receipts_comp_withdrawSource : Flight.receipts ∘ Flight.withdrawSource = Flight.receipts :=
  funext withdrawSource_receipts

theorem silence_changes (s : State) : Changes s (silence s) := by
  refine (abandonPostings_changes s).trans (Plain.changes ?_)
  constructor <;> simp [silence, LineAccess.clearPending]

theorem enterMuted_changes (s : State) : Changes s (enterMuted s) := by
  unfold enterMuted
  split
  · next hlisten =>
    refine .trans (Plain.changes (t := s.onControl fun c => { c with listenStart := none }) ?_)
      (setStation_changes _ _ (by simp) (by simp [hlisten]))
    constructor <;> simp
  · exact (silence_changes s).trans (setStation_changes _ _ (by simp) (by simp [silence]))
  · exact (silence_changes s).trans (setStation_changes _ _ (by simp) (by simp [silence]))
  · exact .refl
  · exact .refl

/-- A channel number names the channel of its index. -/
theorem chan_ofFn {v : Fin 8 → Channel} (s : State) (h : s.chans = Vector.ofFn v) (c : ChannelNo) :
    s.chan c = v c.toFin := by
  simp [State.chan, h]

/-- Reaching PREP leaves no run and a SOLO timebase (R67, R25). -/
theorem clearForPrep_atRest (s : State) : (clearForPrep s).AtRest := by
  refine ⟨rfl, fun c o ho => ?_⟩
  rw [chan_ofFn _ rfl] at ho
  unfold Channel.reachPrep at ho
  split at ho <;> simp at ho
  rw [← ho]
  rfl

theorem AtRest.queueReports {s : State} (h : s.AtRest) (bs : List ReportBody) : (queueReports bs s).AtRest :=
  ⟨by simpa using h.tbState, fun c o ho => h.runs c o (by simpa [State.chan] using ho)⟩

theorem reachPrep_changes (cause : Cause) {s : State} (h : s.control.station ≠ .active) :
    Changes s (reachPrep cause s) :=
  ((Change.clear h).changes.trans (queueReports_changes _ _)).trans
    (setStation_changes _ _ (fun _ => AtRest.queueReports (clearForPrep_atRest s) _)
      (fun hactive => absurd (by simpa [clearForPrep] using hactive) h))

theorem openStation_changes {s : State} (h : s.control.station = .prep) : Changes s (openStation s) := by
  refine .trans (Plain.changes ?_) (setStation_changes _ _ (by simp) (by simp [h]))
  constructor <;> simp

theorem beginClosing_changes (s : State) : Changes s (beginClosing s) := by
  refine .trans ((abandonPostings_changes s).trans (Plain.changes ?_)) (setStation_changes _ _ (by simp) (by simp))
  constructor <;> simp

theorem closeStation_changes (s : State) : Changes s (closeStation s) := by
  unfold closeStation
  split
  · exact .refl
  · exact .refl
  · next h => exact reachPrep_changes _ (by simp [h])
  · next h => exact reachPrep_changes _ (by simp [h])
  · exact beginClosing_changes s

theorem unmuteStation_changes (s : State) : Changes s (unmuteStation s) := by
  unfold unmuteStation
  split
  · next h =>
    refine .trans (Plain.changes ?_) (setStation_changes _ _ (by simp) (by simp [h]))
    constructor <;> simp
  all_goals exact .refl

/-- A channel as its mode sets it up is not running (R52). -/
theorem setUp_idle {mode : ChannelMode} {o : OutputState} (h : Channel.setUp mode = .output o) : o.run = .idle := by
  unfold Channel.setUp at h
  split at h <;> simp at h
  rw [← h]
  rfl

theorem acceptConfig_plain (c : ConfigRecord) (s : State) : Plain s (acceptConfig c s) := by
  constructor <;> simp [acceptConfig]
  right
  intro _ d o ho
  rw [chan_ofFn _ rfl] at ho
  exact Or.inr (setUp_idle ho)

theorem setReference_plain (ref : FrameEndRef) (s : State) : Plain s (setReference ref s) := by
  unfold setReference
  by_cases hheld : s.access.condition = .held <;> constructor <;> simp [hheld]

theorem endListen_changes (s : State) : Changes s (endListen s) := by
  unfold endListen
  split
  · next hended =>
    have hlisten : s.control.station = .listen := by
      unfold State.listenEnded at hended
      split at hended
      · assumption
      · cases hended
    have hreference : Changes s (if s.access.endSeen then s else setReference (FrameEndRef.notGood s.now) s) := by
      split
      · exact .refl
      · exact (setReference_plain _ s).changes
    refine (hreference.trans (Plain.changes ?_)).trans (setStation_changes _ _ (by simp) ?_)
    · constructor <;> simp
    · split <;> simp [hlisten]
  · exact .refl

/-! ### Marks -/

theorem offerMark_plain (share : Share) (mark : MarkRecord) (s : State) : Plain s (offerMark share mark s) := by
  unfold offerMark
  split
  · constructor <;> simp
  · split <;> constructor <;> simp

theorem reportMark_changes (x : InputSettings) (mark : MarkRecord) (s : State) : Changes s (reportMark x mark s) := by
  unfold reportMark
  split
  · exact queueReport_changes _ _
  · exact .refl

theorem onMarks_plain (f : MarkSide → MarkSide) (s : State) : Plain s (s.onMarks f) := by constructor <;> simp

/-- An INPUT channel set to another state is a plain change. -/
theorem setInput_plain (c : ChannelNo) (i : InputState) (s : State) : Plain s (setChan c (.input i) s) :=
  setChan_plain c _ s (by simp)

theorem makeMark_changes (c : ChannelNo) (x : InputSettings) (i : InputState) (rise : Bool) (s : State) :
    Changes s (makeMark c x i rise s) :=
  (((setInput_plain c _ s).changes.trans (onMarks_plain _ _).changes).trans (reportMark_changes _ _ _)).trans
    (offerMark_plain _ _ _).changes

theorem testEdge_changes (c : ChannelNo) (i : InputState) (rise : Bool) (s : State) :
    Changes s (testEdge c i rise s) := by
  unfold testEdge
  split
  · split
    · unfold matchingEdge
      split
      · exact (setInput_plain c _ s).changes
      · exact makeMark_changes _ _ _ _ _
    · exact (setInput_plain c _ s).changes
  · exact (setInput_plain c _ s).changes

theorem inputEdge_changes (c : ChannelNo) (level : Bool) (s : State) : Changes s (inputEdge c level s) := by
  unfold inputEdge
  split
  · split
    · exact testEdge_changes _ _ _ _
    · exact .refl
  · exact .refl
  · exact .refl

theorem firstLevel_changes (c : ChannelNo) (level : Bool) (s : State) : Changes s (firstLevel c level s) := by
  unfold firstLevel
  split
  · split
    · exact (setInput_plain c _ s).changes
    · exact .refl
  · exact .refl
  · exact .refl

/-! ### The acceptance of postings -/

/-- Serials taken with room for them are new, and no two alike (R106). -/
theorem takeSerials_fresh (n : Nat) (used : List Byte) (counter : Byte) (h : used.length + n ≤ 256) :
    (takeSerials used n counter).1.Nodup ∧ ∀ v ∈ (takeSerials used n counter).1, v ∉ used := by
  induction n generalizing used counter with
  | zero => simp [takeSerials]
  | succ n ih =>
    obtain ⟨hnodup, hfresh⟩ := ih (nextFree used counter :: used) (nextFree used counter + 1) (by simp; omega)
    have hnew := nextFree_not_mem used counter (by omega)
    simp only [takeSerials, List.nodup_cons, List.mem_cons, forall_eq_or_imp]
    exact ⟨⟨fun hmem => hfresh _ hmem List.mem_cons_self, hnodup⟩, hnew,
      fun v hv hused => hfresh v hv (List.mem_cons_of_mem _ hused)⟩

/-- The records of a POST carry the serials it took (R106). -/
theorem withSerials_serials (serials : List Byte) (records : List CueSpec) (h : serials.length = records.length) :
    (withSerials serials records).map CueRecord.serial = serials := by
  induction serials generalizing records with
  | nil => simp [withSerials]
  | cons v rest ih =>
    cases records with
    | nil => simp at h
    | cons r records =>
      have := ih records (by simpa using h)
      simp_all [withSerials]

/-- A WITHDRAW whose serials do not fail names none that is carried, and none twice (R105). -/
theorem serialFault_fresh (serials carried : List Byte) (i : Nat) (h : serialFault carried i serials = none) :
    serials.Nodup ∧ ∀ v ∈ serials, v ∉ carried := by
  induction serials generalizing carried i with
  | nil => simp
  | cons v rest ih =>
    unfold serialFault at h
    split at h
    · cases h
    · next hv =>
      obtain ⟨hnodup, hfresh⟩ := ih _ _ h
      simp only [List.nodup_cons, List.mem_cons, forall_eq_or_imp]
      exact ⟨⟨fun hmem => hfresh _ hmem List.mem_cons_self, hnodup⟩, by simpa using hv,
        fun w hw hcarried => hfresh w hw (List.mem_cons_of_mem _ hcarried)⟩

/-- The checks that come before BAD_RECORD have passed (R104). -/
theorem postRefusal_none {s : State} (h : s.postRefusal = none) :
    s.control.station = .active ∧ s.post.list.length < 8 ∧ s.reportSum < 48 := by
  unfold State.postRefusal postingCapacity reportCapacity at h
  by_cases hactive : s.control.station = .active
  · rw [if_neg (not_not_intro hactive)] at h
    split at h
    · cases h
    · split at h
      · cases h
      · exact ⟨hactive, by omega, by omega⟩
  · rw [if_pos hactive] at h
    cases h

theorem settleSelf_changes (body : PostBody) {s : State} (h : s.control.station ≠ .prep) :
    Changes s (settleSelf body s).1 := by
  unfold settleSelf
  split
  · exact installLocal_changes _ _ h
  · exact withdrawLocal_changes _ _ _

theorem takeSelf_changes (p : Posting) {s : State} (hp : p ∈ s.post.list) (h : s.control.station ≠ .prep) :
    Changes s (takeSelf p s) := by
  unfold takeSelf
  split
  · simp only []
    refine (settleSelf_changes p.body h).trans (Change.posting _ (p := p) (by simpa using hp) ?_).changes
    exact .of_expected rfl rfl rfl
  · exact .refl

theorem settlePosting_changes (p : Posting) (s : State) : Changes s (settlePosting p s) := by
  unfold settlePosting
  split
  · exact finishPosting_changes _ _ _
  · split
    · exact finishPosting_changes _ _ _
    · exact .refl

theorem takePosting_changes (target : Target) (body : PostBody) {s : State} (h : s.MayJoin body) :
    Changes s (takePosting target body s) := by
  unfold takePosting
  simp only []
  refine ((Change.join body target h).changes.trans (takeSelf_changes _ ?_ ?_)).trans (settlePosting_changes _ _)
  · simp [joinList]
  · simp [h.active]

theorem takePost_changes (target : Target) (records : List CueSpec) {s : State} (hrecords : records.length ≤ 4) :
    Changes s (takePost target records s).1 := by
  unfold takePost
  split
  · exact .refl
  · next hpassed =>
    obtain ⟨hactive, hlist, hroom⟩ := postRefusal_none hpassed
    split
    · exact .refl
    · simp only []
      refine .trans (Plain.changes ?_) (takePosting_changes target _ ⟨?_, ?_, ?_, ?_, ?_⟩)
      · constructor <;> simp
      · simpa using hactive
      · simpa using hlist
      · simpa [State.reportSum] using hroom
      · simp only [PostBody.fits, withSerials, List.length_zipWith]
        omega
      · intro hcarried
        have hcarried : s.carriedSerials.length ≤ 64 := by simpa [State.carriedSerials] using hcarried
        have hserials := withSerials_serials (takeSerials s.carriedSerials records.length s.post.nextSerial).1 records
          (takeSerials_length _ _ _)
        simp only [PostBody.serials, hserials]
        simpa [State.carriedSerials] using takeSerials_fresh records.length s.carriedSerials s.post.nextSerial (by omega)

theorem takeWithdraw_changes (target : Target) (serials : List Byte) {s : State} (hserials : serials.length ≤ 8) :
    Changes s (takeWithdraw target serials s).1 := by
  unfold takeWithdraw
  split
  · exact .refl
  · next hpassed =>
    obtain ⟨hactive, hlist, hroom⟩ := postRefusal_none hpassed
    split
    · exact .refl
    · next hfault =>
      exact takePosting_changes target _ ⟨hactive, hlist, hroom, hserials, fun _ => serialFault_fresh _ _ _ hfault⟩

end Sys2Proof.Machine

namespace Sys2Proof.Machine

/-! ### Line access -/

/-- A change of line access that starts no frame, keeps the frame in flight and its receipts, and adds no receipt. -/
theorem onAccess_plain (f : LineAccess → LineAccess) (s : State)
    (hreceipts : (f s.access).receipts.length ≤ s.access.receipts.length)
    (hflight : (f s.access).flight.map Flight.receipts = s.access.flight.map Flight.receipts) :
    Plain s (s.onAccess f) := by
  constructor <;> simp [hflight, hreceipts]

theorem expiryAtAccess_plain (s : State) : Plain s (expiryAtAccess s) := by
  unfold expiryAtAccess
  split
  · apply onAccess_plain <;> (unfold LineAccess.beatDue; split <;> simp)
  · constructor <;> simp

theorem nextPeriod_plain (s : State) : Plain s (nextPeriod s) := by
  constructor <;> simp [nextPeriod]

theorem beginReceiptsBeat_plain (s : State) : Plain s (beginReceiptsBeat s) := by
  unfold beginReceiptsBeat
  split <;> constructor <;> simp

theorem lapseReceiptsBeat_plain (s : State) : Plain s (lapseReceiptsBeat s) := by
  unfold lapseReceiptsBeat
  split <;> constructor <;> simp

theorem endTransmission_plain (s : State) : Plain s (endTransmission s) := by
  constructor <;> simp [endTransmission, Signalling.endEcho]

theorem countSent_plain (f : Flight) (s : State) : Plain s (countSent f s) := by
  constructor <;> simp [countSent]

theorem sentEffect_changes (f : Flight) (s : State) : Changes s (sentEffect f s) := by
  unfold sentEffect
  split
  · split
    · next h => exact reachPrep_changes _ (by simp [h])
    · exact .refl
  · split
    · exact .refl
    · exact (onAccess_plain _ s (by simp [LineAccess.dueSent]) (by simp [LineAccess.dueSent])).changes
  · split
    · exact .refl
    · exact sentNotice_changes _ _
  · exact (onMarks_plain _ s).changes.trans (onAccess_plain _ _ (by simp) (by simp)).changes
  · split
    · exact .refl
    · exact (onAccess_plain _ s (by simp) (by simp)).changes

theorem sentWhole_changes (f : Flight) (s : State) : Changes s (sentWhole f s) :=
  (((endTransmission_plain s).changes.trans (countSent_plain f _).changes).trans (setReference_plain _ _).changes).trans
    (sentEffect_changes f _)

theorem cutEffect_changes (f : Flight) (count : Nat) (s : State) : Changes s (cutEffect f count s) := by
  unfold cutEffect
  split
  · split
    · exact (onAccess_plain _ s (by simp) (by simp)).changes
    · exact .refl
  · split
    · exact .refl
    · exact (onAccess_plain _ s (by simp [LineAccess.dueCut]) (by simp [LineAccess.dueCut])).changes
  · split
    · exact .refl
    · split
      · next p hp => refine rewrite_changes hp ?_ ?_ ?_ <;> rfl
      · exact .refl
  · exact (onAccess_plain _ s (by simp) (by simp)).changes
  · split
    · exact .refl
    · exact (onAccess_plain _ s (by simp) (by simp)).changes

theorem dropEffect_changes (f : Flight) (s : State) : Changes s (dropEffect f s) := by
  unfold dropEffect
  split
  · split
    · next h => exact reachPrep_changes _ (by simp [h])
    · exact .refl
  · split
    · exact .refl
    · exact (onAccess_plain _ s (by simp [LineAccess.dueSent]) (by simp [LineAccess.dueSent])).changes
  · split
    · exact .refl
    · exact finishPosting_changes _ _ _
  · exact (onMarks_plain _ s).changes.trans (onAccess_plain _ _ (by simp) (by simp)).changes
  · split
    · exact .refl
    · exact (onAccess_plain _ s (by simp) (by simp)).changes

theorem dropFrame_changes (f : Flight) (s : State) : Changes s (dropFrame f s) :=
  (((onAccess_plain (fun a => { a with drops := satInc a.drops }) s (by simp) (by simp)).changes).trans
    (queueReport_changes _ _)).trans (dropEffect_changes f _)

theorem release_changes (f : Flight) (s : State) : Changes s (release f s) :=
  (endTransmission_plain s).changes.trans (onAccess_plain _ _ (by simp) (by simp)).changes

theorem collide_changes (f : Flight) (s : State) : Changes s (collide f s) := by
  unfold collide
  split
  · exact (release_changes f s).trans (dropFrame_changes f _)
  · exact (release_changes f s).trans (cutEffect_changes f _ _)

/-- A change of line signalling that keeps the own number. -/
theorem onSig_plain (f : Signalling → Signalling) (s : State) (h : (f s.sig).own = s.sig.own) :
    Plain s (s.onSig f) := by
  constructor <;> simp [h]

theorem echoCheck_changes (readBack : Option ReadBack) (s : State) : Changes s (echoCheck readBack s) := by
  unfold echoCheck
  split
  · split
    · split
      · split
        · exact (onSig_plain _ s rfl).changes
        · exact sentWhole_changes _ _
      · exact collide_changes _ _
    · exact .refl
  · exact .refl

theorem endCutWait_changes (s : State) : Changes s (endCutWait s) := by
  unfold endCutWait
  split
  · split
    · exact (setReference_plain _ s).changes
    · exact .refl
  · exact .refl

theorem lineHeld_changes (s : State) : Changes s (lineHeld s) := by
  unfold lineHeld
  split
  · exact .refl
  · unfold beginHeld
    split
    · exact (onSig_plain _ s rfl).changes
    · exact ((onSig_plain _ s rfl).changes.trans (onAccess_plain _ _ (by simp) (by simp)).changes).trans
        (queueReport_changes _ _)

theorem heldEnd_changes (s : State) : Changes s (heldEnd s) := by
  unfold heldEnd
  split
  · refine (onSig_plain _ s rfl).changes.trans (onAccess_plain _ _ ?_ ?_).changes <;>
      (unfold LineAccess.endHeld; split <;> simp)
  · exact .refl

/-! ### Received frames and the receiver -/

theorem onRoster_changes (f : Roster → Roster) (s : State) (h : (f s.roster).entries = s.roster.entries) :
    Changes s (s.onRoster f) := by
  apply Plain.changes
  constructor <;> simp [h]

theorem takeTwin_changes (kind seq : Byte) (s : State) : Changes s (takeTwin kind seq s) := by
  have hcounted := onRoster_changes (fun r => { r with twinCount := satInc r.twinCount }) s rfl
  unfold takeTwin
  simp only []
  split
  · exact (hcounted.trans (queueReport_changes _ _)).trans (enterMuted_changes _)
  · exact (hcounted.trans (queueReport_changes _ _)).trans (enterMuted_changes _)
  · exact (hcounted.trans (queueReport_changes _ _)).trans (enterMuted_changes _)
  · exact hcounted
  · exact .refl

theorem dispatchHeader_changes (f : LineFrame) (s : State) : Changes s (dispatchHeader f s) := by
  unfold dispatchHeader
  split
  · exact takeTwin_changes _ _ _
  · split
    · exact sequenceCheck_changes _ _ _
    · exact .refl

theorem dispatchBody_changes (f : LineFrame) (a : ArrivalStamp) {s : State} (h : f.source ≠ s.sig.own) :
    Changes s (dispatchBody f a s) := by
  unfold dispatchBody
  split
  · exact beat_changes _ _ _ h
  · split
    · next hhere => exact takeCues_changes _ _ ((opened_iff s).mp (by simp_all))
    · exact .refl
  · split
    · exact takeWithdrawals_changes _ _ _
    · exact .refl
  · split
    · exact queueReports_changes _ _
    · exact .refl

theorem dispatch_changes (f : LineFrame) (a : ArrivalStamp) (s : State) : Changes s (dispatch f a s) := by
  unfold dispatch
  simp only []
  refine .trans ?_ (takeReceipts_changes _ _ _)
  split
  · exact dispatchHeader_changes f s
  · next h => exact (dispatchHeader_changes f s).trans (dispatchBody_changes f a (by simpa using h))

theorem handFrameEnd_changes (ref : FrameEndRef) (s : State) : Changes s (handFrameEnd ref s) :=
  (setReference_plain ref s).changes.trans (onAccess_plain _ _ (by simp) (by simp)).changes

/-- A change of the frame unit that keeps the copy of the frame being sent. -/
theorem onFrames_plain (f : FrameUnit → FrameUnit) (s : State) (h : (f s.frames).copy = s.frames.copy) :
    Plain s (s.onFrames f) := by
  constructor <;> simp [h]

@[simp] theorem count_copy (v : FrameVerdict) (u : FrameUnit) : (u.count v).copy = u.copy := by
  unfold FrameUnit.count
  split <;> rfl

theorem dispatchVerdict_changes (v : FrameVerdict) (a : ArrivalStamp) (s : State) :
    Changes s (dispatchVerdict v a s) := by
  unfold dispatchVerdict
  split
  · exact dispatch_changes _ _ _
  all_goals exact .refl

theorem endFrame_changes (a : Assembly) (how : FrameEnd) (s : State) : Changes s (endFrame a how s) :=
  ((onFrames_plain (fun u => FrameUnit.count (a.verdict how) { u with assembly := none }) s
    (count_copy _ _)).changes.trans (handFrameEnd_changes _ _)).trans (dispatchVerdict_changes _ _ _)

theorem assemble_changes (c : RxChar) (stamp : Option ArrivalStamp) (s : State) : Changes s (assemble c stamp s) := by
  unfold assemble
  split
  · unfold extendFrame
    simp only []
    split
    · exact endFrame_changes _ _ _
    · exact (onFrames_plain _ s rfl).changes
  · split
    · refine (onFrames_plain _ s rfl).changes.trans (onAccess_plain _ _ ?_ ?_).changes <;> (split <;> simp)
    · refine (onFrames_plain _ s rfl).changes.trans (onAccess_plain _ _ ?_ ?_).changes <;>
        (unfold LineAccess.strayEnded; split <;> simp)

theorem gapFound_changes (s : State) : Changes s (gapFound s) := by
  unfold gapFound
  split
  · split
    · exact endFrame_changes _ _ _
    · exact .refl
  · exact .refl

theorem receiveCharacter_plain (c : RxChar) (s : State) : Plain s (receiveCharacter c s) := by
  constructor <;> simp [receiveCharacter, Signalling.delivered]

theorem deliverCharacter_changes (c : RxChar) (s : State) : Changes s (deliverCharacter c s) := by
  unfold deliverCharacter
  split
  · exact .refl
  · exact (receiveCharacter_plain c s).changes.trans (assemble_changes _ _ _)

theorem openCheck_plain (s : State) : Plain s (openCheck s) := by
  constructor <;> simp [openCheck, Signalling.beginCheck]

theorem startEdge_changes (s : State) : Changes s (startEdge s) := by
  obtain h | h | ⟨c, h⟩ := startEdge_cases s
  · rw [h]
  · rw [h]
    exact (openCheck_plain s).changes
  · rw [h]
    exact (deliverCharacter_changes c s).trans (openCheck_plain _).changes

theorem confirmStart_changes (noisy : Bool) (s : State) : Changes s (confirmStart noisy s) := by
  unfold confirmStart
  split
  · refine (onSig_plain _ s rfl).changes.trans (onAccess_plain _ _ ?_ ?_).changes <;> (split <;> simp)
  · exact .refl

theorem glitch_plain (s : State) : Plain s (glitch s) := by
  unfold glitch
  split <;> constructor <;> simp

/-! ### The local port -/

theorem answer_plain (r : Reply) (s : State) : Plain s (answer r s) := by constructor <;> simp [answer]

theorem gather_plain (chars : List Byte) (s : State) : Plain s (gather chars s) := by constructor <;> simp

theorem gatherRequest_plain (code : Byte) (body : List Byte) (s : State) : Plain s (gatherRequest code body s) := by
  constructor <;> simp

theorem bodyless_changes {body : List Byte} {taken : State → State} {s : State} (h : Changes s (taken s)) :
    Changes s (bodyless body taken s) := by
  unfold bodyless
  split
  · exact h
  · exact (answer_plain _ s).changes

/-- A whole request, gathered and taken. -/
theorem request_changes (code : Byte) (body : List Byte) {taken : State → State} (s : State)
    (h : ∀ u, Changes u (taken u)) : Changes s (taken (gatherRequest code body s)) :=
  (gatherRequest_plain code body s).changes.trans (h _)

theorem beginExchange_plain (s : State) : Plain s (beginExchange s) := by
  unfold beginExchange
  split <;> constructor <;> simp

theorem configure_changes (body : List Byte) (s : State) : Changes s (configure body s) := by
  unfold configure
  split
  · exact (answer_plain _ s).changes
  · split
    · exact (answer_plain _ s).changes
    · split
      · exact (answer_plain _ s).changes
      · exact (acceptConfig_plain _ s).changes.trans (answer_plain _ _).changes

theorem takeOpen_changes (s : State) : Changes s (takeOpen s) := by
  unfold takeOpen
  split
  · exact (answer_plain _ s).changes
  · next h =>
    split
    · exact (answer_plain _ s).changes
    · exact (openStation_changes (not_ne_iff.mp h)).trans (answer_plain _ _).changes

/-- A sound POST has at most 4 records (R209). -/
theorem postOf_records {body : List Byte} {target : Target} {records : List CueSpec}
    (h : postOf body = some (target, records)) : records.length ≤ 4 := by
  have hwalk : ∀ (n : Nat) (bytes : List Byte) (rs : List CueSpec), localRecordsOf n bytes = some rs → rs.length = n := by
    intro n
    induction n with
    | zero =>
      intro bytes rs hrs
      cases bytes <;> simp_all [localRecordsOf]
    | succ n ih =>
      intro bytes rs hrs
      simp only [localRecordsOf, Option.bind_eq_bind, Option.bind_eq_some_iff] at hrs
      obtain ⟨⟨spec, rest⟩, -, more, hmore, heq⟩ := hrs
      simp only [Option.some.injEq] at heq
      simp [← heq, ih _ _ hmore]
  unfold postOf at h
  split at h
  · simp only [Option.bind_eq_bind, Option.bind_eq_some_iff] at h
    obtain ⟨t, -, h⟩ := h
    split at h
    · cases h
    · simp only [Option.bind_eq_some_iff, Option.some.injEq, Prod.mk.injEq] at h
      obtain ⟨rs, hrs, -, rfl⟩ := h
      have := hwalk _ _ _ hrs
      omega
  · cases h

/-- A sound WITHDRAW names at most 8 serials (R209). -/
theorem withdrawOf_serials {body : List Byte} {target : Target} {serials : List Byte}
    (h : withdrawOf body = some (target, serials)) : serials.length ≤ 8 := by
  unfold withdrawOf at h
  split at h
  · simp only [Option.bind_eq_bind, Option.bind_eq_some_iff] at h
    obtain ⟨t, -, h⟩ := h
    split at h
    · cases h
    · simp only [Option.some.injEq, Prod.mk.injEq] at h
      obtain ⟨-, rfl⟩ := h
      omega
  · cases h

theorem post_changes (body : List Byte) (s : State) : Changes s (post body s) := by
  unfold post
  split
  · exact (answer_plain _ s).changes
  · next h => exact (takePost_changes _ _ (postOf_records h)).trans (answer_plain _ _).changes

theorem withdraw_changes (body : List Byte) (s : State) : Changes s (withdraw body s) := by
  unfold withdraw
  split
  · exact (answer_plain _ s).changes
  · next h => exact (takeWithdraw_changes _ _ (withdrawOf_serials h)).trans (answer_plain _ _).changes

theorem takeFetch_changes (s : State) : Changes s (takeFetch s) := by
  refine (Plain.changes (t := removeReports s.fetched s) ?_).trans (answer_plain _ _).changes
  constructor <;> simp [removeReports]

theorem expireLinger_plain (s : State) : Plain s (expireLinger s) := by
  unfold expireLinger
  split <;> constructor <;> simp

theorem slewStep_plain (s : State) : Plain s (slewStep s) := by
  unfold slewStep
  split
  · constructor <;> simp [Timebase.slew] <;> (split <;> (try split) <;> simp)
  · constructor <;> simp

/-! ### The clock -/

theorem checkStart_own (q offset : Nat) (level : Bool) (x : Signalling) :
    (x.checkStart q offset level).1.own = x.own := by
  unfold Signalling.checkStart
  simp only []
  split
  · rfl
  · split <;> rfl

theorem decideBit_own (now : Time) (q offset : Nat) (level : Bool) (x : Signalling) :
    (x.decideBit now q offset level).1.own = x.own := by
  unfold Signalling.decideBit
  simp only []
  split
  · rfl
  · split
    · split <;> rfl
    · rfl

theorem readEcho_own (q offset : Nat) (level : Bool) (x : Signalling) : (x.readEcho q offset level).1.own = x.own := by
  unfold Signalling.readEcho
  simp only []
  split
  · rfl
  · split <;> rfl

theorem hunt_own (now : Time) (level : Bool) (before : Option Bool) (x : Signalling) :
    (x.hunt now level before).1.own = x.own := by
  unfold Signalling.hunt
  simp only []
  split
  · rfl
  · split
    · rfl
    · split <;> rfl

/-- The receiver and the detector leave the own number alone. -/
theorem receive_own (s : State) (place : Nat) (level : Bool) (before : Option Bool) :
    (s.receive place level before).1.own = s.sig.own := by
  unfold State.receive
  simp only []
  split
  · exact hunt_own _ _ _ _
  · exact checkStart_own _ _ _ _
  · exact decideBit_own _ _ _ _ _
  · split
    · exact readEcho_own _ _ _ _
    · rfl

theorem detect_own (q : Nat) (filtered : Option Bool) (x : Signalling) : (x.detect q filtered).1.own = x.own := by
  unfold Signalling.detect
  split
  · rfl
  · split <;> rfl

theorem takeSampleOfLine_plain (s : State) : Plain s (takeSampleOfLine s) := by
  constructor <;> simp [takeSampleOfLine, detect_own, receive_own]

/-- The next tick before a receipts BEAT lapses (R1, R71). -/
def State.ticked (s : State) : State :=
  { s with
    tb := s.tb.tick
    chans := Vector.ofFn fun c => Channel.samplePin (s.world.nextPins.getLsbD c.val) s.chans[c]
    access := s.access.countRounds (s.now + 1)
    sig := { s.sig with taken := 0 }
    stepFixed := false
    world := { s.world with pins := s.world.nextPins, feed := s.world.feed.drop 1 } }

theorem nextTick_eq (s : State) : nextTick s = lapseReceiptsBeat s.ticked := rfl

/-- An OUTPUT channel keeps its state on the next tick (R71). -/
theorem ticked_output {s : State} {c : ChannelNo} {o : OutputState} (h : s.ticked.chan c = .output o) :
    s.chan c = .output o := by
  rw [chan_ofFn _ rfl] at h
  unfold Channel.samplePin at h
  split at h <;> simp_all [State.chan]

theorem ticked_plain (s : State) : Plain s s.ticked := by
  constructor <;> try simp [State.ticked, Timebase.tick, LineAccess.countRounds]
  exact Or.inr fun _ c o ho => Or.inl (ticked_output ho)

theorem idle_changes (s : State) : Changes s (idle s) := by
  obtain ⟨e, h⟩ | h | h := idle_cases s
  · rw [h]
    apply Plain.changes
    constructor <;> simp
  · rw [h]
    exact (takeSampleOfLine_plain s).changes
  · rw [h, nextTick_eq]
    exact (ticked_plain s).changes.trans (lapseReceiptsBeat_plain _).changes

/-! ### A step -/

/-- What a start of a frame reads of the line access unit and of the clock. -/
structure SameSlot (s u : State) : Prop where
  station : u.control.station = s.control.station
  reference : u.access.reference = s.access.reference
  localTime : u.tb.localTime = s.tb.localTime
  sig : u.sig = s.sig

/-- What happens on a step: changes, or changes up to the start of a frame, the start, and changes after it. -/
inductive Happens (s t : State) : Prop
  | changes : Changes s t → Happens s t
  | starts (u : State) (kind : FlightKind) : Changes s u → SameSlot s u → u.starting = some kind →
      Changes (startFrame kind u) t → Happens s t

theorem frameStart_happens (s : State) : Happens s (frameStart s) := by
  unfold frameStart
  split
  · next kind h => exact .starts s kind .refl ⟨rfl, rfl, rfl, rfl⟩ h .refl
  · exact .changes .refl

theorem sweepAndEvaluate_changes (order : ExpiryOrder) {s : State} (h : s.control.station ≠ .prep) :
    Changes s (sweepAndEvaluate order s) := by
  unfold sweepAndEvaluate
  split
  · exact (sweep_changes s).trans (evaluate_changes order (by simpa using h))
  · exact (evaluate_changes order h).trans (sweep_changes _)

/-- The next period and the due BEAT leave the slots alone. -/
theorem expiryAtAccess_nextPeriod_sameSlot (s : State) : SameSlot s (expiryAtAccess (nextPeriod s)) := by
  have hreference : (expiryAtAccess (nextPeriod s)).access.reference = s.access.reference := by
    unfold expiryAtAccess
    split
    · simp only [onAccess_access, LineAccess.beatDue]
      split <;> simp
    · simp
  exact ⟨by simp, hreference, by simp [nextPeriod], by simp⟩

/-- A period expiry is found outside PREP (R6). -/
theorem opened_of_periodExpired {s : State} (h : s.periodExpired = true) : s.control.station ≠ .prep := by
  unfold State.periodExpired at h
  split at h
  · simp only [Bool.and_eq_true, opened_iff] at h
    exact h.1
  · cases h

theorem expirePeriod_happens (order : ExpiryOrder) (s : State) : Happens s (expirePeriod order s) := by
  obtain h | ⟨hexpired, h⟩ := expirePeriod_cases s order
  · rw [h]
    exact .changes .refl
  · have hopen := opened_of_periodExpired hexpired
    have hperiod := (nextPeriod_plain s).changes
    rw [h, takeExpiry]
    split
    · have hbefore := hperiod.trans (expiryAtAccess_plain _).changes
      unfold frameStart
      split
      · next kind hstart =>
        exact .starts _ kind hbefore (expiryAtAccess_nextPeriod_sameSlot s) hstart
          (sweepAndEvaluate_changes order (by simpa using hopen))
      · exact .changes (hbefore.trans (sweepAndEvaluate_changes order (by simpa using hopen)))
    · exact .changes ((hperiod.trans (sweepAndEvaluate_changes order (by simpa using hopen))).trans
        (expiryAtAccess_plain _).changes)

/-- Every command makes changes, and FRAME_START and PERIOD_EXPIRY may start a frame among them. -/
theorem after_happens (c : Instr) (s : State) : Happens s (after c s) := by
  cases c
  case reset stn rate => exact .changes (Change.reset stn rate s).changes
  case exchangeBegin => exact .changes (beginExchange_plain s).changes
  case noRequest => exact .changes ((gather_plain _ s).changes.trans (answer_plain _ _).changes)
  case short => exact .changes ((gather_plain _ s).changes.trans (answer_plain _ _).changes)
  case nop => exact .changes (request_changes _ _ s fun u => bodyless_changes (answer_plain _ u).changes)
  case configure => exact .changes (request_changes _ _ s fun u => configure_changes _ u)
  case openLine => exact .changes (request_changes _ _ s fun u => bodyless_changes (takeOpen_changes u))
  case close =>
    exact .changes (request_changes _ _ s fun u =>
      bodyless_changes ((closeStation_changes u).trans (answer_plain _ _).changes))
  case unmute =>
    exact .changes (request_changes _ _ s fun u =>
      bodyless_changes ((unmuteStation_changes u).trans (answer_plain _ _).changes))
  case restart =>
    exact .changes (request_changes _ _ s fun u =>
      bodyless_changes ((Change.restart u).changes.trans (answer_plain _ _).changes))
  case post => exact .changes (request_changes _ _ s fun u => post_changes _ u)
  case withdraw => exact .changes (request_changes _ _ s fun u => withdraw_changes _ u)
  case fetch => exact .changes (request_changes _ _ s fun u => bodyless_changes (takeFetch_changes u))
  case status => exact .changes (request_changes _ _ s fun u => bodyless_changes (answer_plain _ u).changes)
  case stamp => exact .changes (request_changes _ _ s fun u => bodyless_changes (answer_plain _ u).changes)
  case roster => exact .changes (request_changes _ _ s fun u => bodyless_changes (answer_plain _ u).changes)
  case slewStep => exact .changes (slewStep_plain s).changes
  case periodExpiry order => exact expirePeriod_happens order s
  case listenEnd => exact .changes (endListen_changes s)
  case lingerExpiry => exact .changes (expireLinger_plain s).changes
  case responseWindowExpiry id => exact .changes (expireWindow_changes id s)
  case deadlinePassed id => exact .changes (passDeadline_changes id s)
  case headDue => exact .changes (fireDue_changes s)
  case edgeReached c => exact .changes (watchEdges_changes c s)
  case inputEdge c level => exact .changes (inputEdge_changes c level s)
  case startEdge => exact .changes (startEdge_changes s)
  case startConfirmation noisy => exact .changes (confirmStart_changes noisy s)
  case glitch => exact .changes (glitch_plain s).changes
  case characterDelivered c => exact .changes (deliverCharacter_changes c s)
  case gapFound => exact .changes (gapFound_changes s)
  case frameStart => exact frameStart_happens s
  case echoCheck readBack => exact .changes (echoCheck_changes readBack s)
  case cutWaitEnd => exact .changes (endCutWait_changes s)
  case receiptsBeatPending => exact .changes (beginReceiptsBeat_plain s).changes
  case lineHeld => exact .changes (lineHeld_changes s)
  case heldEnd => exact .changes (heldEnd_changes s)
  case unknownRequestCode => exact .changes ((gatherRequest_plain _ _ s).changes.trans (answer_plain _ _).changes)
  case firstInputLevel c level => exact .changes (firstLevel_changes c level s)

/-- The queue of commands is no law's. -/
theorem pending_plain (q : List Instr) (s : State) : Plain s { s with pending := q } := by constructor <;> simp

/-- Everything a step can do. -/
theorem step_happens {s t : State} (h : step s = .next t) : Happens s t := by
  cases hp : s.pending with
  | nil =>
    rw [step_empty s hp] at h
    exact Host.Outcome.next.inj h ▸ .changes (idle_changes s)
  | cons c rest =>
    rw [step_front s c rest hp] at h
    rw [← Host.Outcome.next.inj h]
    have hqueue := (pending_plain rest s).changes
    cases after_happens c { s with pending := rest } with
    | changes hc => exact .changes (hqueue.trans hc)
    | starts u kind hu hslot hstart ht => exact .starts u kind (hqueue.trans hu) ⟨hslot.1, hslot.2, hslot.3, hslot.4⟩ hstart ht

/-- A property that every change and every start of a frame keeps is kept by every step. -/
theorem step_keeps_of_changes {P : State → Prop} (hchange : ∀ s t, Change s t → P s → P t)
    (hstart : ∀ s kind, s.starting = some kind → P s → P (startFrame kind s)) {s t : State} (hs : P s)
    (h : step s = .next t) : P t := by
  cases step_happens h with
  | changes hc => exact hc.keeps hchange hs
  | starts u kind hu _ hkind ht => exact ht.keeps hchange (hstart u kind hkind (hu.keeps hchange hs))

end Sys2Proof.Machine

namespace Sys2Proof.Machine

/-! ### The cue table (R29, R31) -/

/-- A key that joins leaves at most 32 keys in the list (R31). -/
theorem length_addRecent_le (key : CueKey) (how : Departure) (recent : List RecentKey) :
    (addRecent key how recent).length ≤ 32 := by
  simp only [addRecent, recentCapacity, List.length_append, List.length_drop, List.length_singleton]
  omega

/-- Every entry after a key has joined is the new one or an older one with another key. -/
theorem mem_addRecent {key : CueKey} {how : Departure} {recent : List RecentKey} {r : RecentKey}
    (h : r ∈ addRecent key how recent) : r.key = key ∨ r ∈ recent ∧ r.key ≠ key := by
  simp only [addRecent, List.mem_append, List.mem_singleton] at h
  obtain h | rfl := h
  · have hmem := List.mem_filter.mp (List.mem_of_mem_drop h)
    exact Or.inr ⟨hmem.1, by simpa using hmem.2⟩
  · exact Or.inl rfl

/-- A key that joins stands in the list once (R31). -/
theorem nodup_addRecent (key : CueKey) (how : Departure) {recent : List RecentKey}
    (h : (recent.map RecentKey.key).Nodup) : ((addRecent key how recent).map RecentKey.key).Nodup := by
  simp only [addRecent, List.map_append, List.map_cons, List.map_nil, List.nodup_append, List.nodup_singleton,
    true_and, List.mem_singleton, forall_eq]
  constructor
  · exact h.sublist (((List.drop_sublist _ _).trans List.filter_sublist).map _)
  · intro k hk
    obtain ⟨r, hr, rfl⟩ := List.mem_map.mp hk
    simpa using (List.mem_filter.mp (List.mem_of_mem_drop hr)).2

/-- The new entry is put among the held ones, which stay as they are (R29). -/
theorem placeEntry_perm (dist : Time → Nat) (e : HeldEntry) (held : List HeldEntry) :
    (placeEntry dist e held).Perm (e :: held) := by
  induction held with
  | nil => exact .refl _
  | cons h rest ih =>
    unfold placeEntry
    split
    · exact (ih.cons h).trans (.swap e h rest)
    · exact .refl _

theorem holds_eq_false {t : CueTable} {key : CueKey} : t.holds key = false ↔ ∀ e ∈ t.held, e.key ≠ key := by
  simp [CueTable.holds]

theorem leftBy_eq_none {t : CueTable} {key : CueKey} : t.leftBy key = none ↔ ∀ r ∈ t.recent, r.key ≠ key := by
  simp [CueTable.leftBy]

/-- Laws 1 and 2 as a property of the cue table alone. -/
structure CueTable.Lawful (t : CueTable) : Prop where
  capacity : t.held.length ≤ 64
  keys : (t.held.map HeldEntry.key).Nodup
  apart : ∀ e ∈ t.held, ∀ r ∈ t.recent, e.key ≠ r.key
  recentCapacity : t.recent.length ≤ 32
  recentKeys : (t.recent.map RecentKey.key).Nodup

theorem lawful_cues_iff (s : State) : s.cues.Lawful ↔ Law1 s ∧ Law2 s :=
  ⟨fun h => ⟨⟨h.1, h.2⟩, h.3, h.4, h.5⟩, fun ⟨⟨h1, h2⟩, h3, h4, h5⟩ => ⟨h1, h2, h3, h4, h5⟩⟩

theorem CueTable.lawful_empty (n : Count16) : ({ held := [], recent := [], installCount := n } : CueTable).Lawful := by
  constructor <;> simp

/-- A key that leaves the table is held no more, and stands once in the recent-key list. -/
theorem CueTable.Lawful.leave {t : CueTable} (h : t.Lawful) (key : CueKey) (how : Departure) :
    (t.leave key how).Lawful where
  capacity := (List.length_filter_le _ _).trans h.capacity
  keys := h.keys.sublist (List.filter_sublist.map _)
  apart := by
    intro e he r hr
    have hheld := List.mem_filter.mp he
    obtain hkey | ⟨hold, -⟩ := mem_addRecent hr
    · rw [hkey]
      simpa using hheld.2
    · exact h.apart e hheld.1 r hold
  recentCapacity := length_addRecent_le _ _ _
  recentKeys := nodup_addRecent _ _ h.recentKeys

/-- A record placed has a key that is neither held nor recent, and room (R33, R35). -/
theorem lawful_placeHeld {s : State} (h : s.cues.Lawful) {key : CueKey} (hkey : s.MayPlace key) (path : InstallPath)
    (r : CueSpec) (action : HeldAction) (fire : Time) : (placeHeld path key r action fire s).cues.Lawful := by
  have hperm := placeEntry_perm s.orderDistance
    { key := key, channel := r.channel, action := action, report := r.report, fire := fire, path := path,
      installNo := s.cues.installCount } s.cues.held
  refine ⟨?_, (hperm.map HeldEntry.key).nodup_iff.mpr ?_, fun e he => ?_, h.recentCapacity, h.recentKeys⟩
  · have := hkey.room
    simp only [placeHeld, onCues_cues, hperm.length_eq, List.length_cons]
    omega
  · rw [List.map_cons, List.nodup_cons]
    refine ⟨fun hmem => ?_, h.keys⟩
    obtain ⟨e, he, hek⟩ := List.mem_map.mp hmem
    exact holds_eq_false.mp hkey.notHeld e he hek
  · obtain rfl | he := List.mem_cons.mp (hperm.mem_iff.mp he)
    · exact fun r hr heq => leftBy_eq_none.mp hkey.notRecent r hr heq.symm
    · exact h.apart e he

theorem change_keeps_cues {s t : State} (hc : Change s t) (h : s.cues.Lawful) : t.cues.Lawful := by
  cases hc with
  | plain hp => rwa [hp.cues]
  | leave key how => exact h.leave key how
  | place path key r action fire hkey => exact lawful_placeHeld h hkey path r action fire
  | clear _ => exact CueTable.lawful_empty 0
  | reset own rate => exact CueTable.lawful_empty 0
  | restart => exact CueTable.lawful_empty 0
  | report | finish | posting | join | peer | absent | sample | beat | station => simpa using h

/-- Settles O55: each change of the cue table keeps its laws, and a start of a frame leaves it alone. -/
theorem cueTableLawsAreKept : Obligations.CueTableLawsAreKept := by
  intro s t h1 h2 hstep
  rw [← lawful_cues_iff]
  exact step_keeps_of_changes (P := fun s => s.cues.Lawful) (fun _ _ => change_keeps_cues)
    (fun s kind _ h => by simpa using h) ((lawful_cues_iff s).mpr ⟨h1, h2⟩) hstep

/-! ### Reports and reservations (R107, R211) -/

/-- A posting that finishes gives its place in the list for its report (R107). -/
theorem finishPosting_sum (id : Byte) (o : PostOutcome) (s : State) :
    (finishPosting id o s).reportSum = s.reportSum := by
  unfold finishPosting
  split
  · rfl
  · next p hp =>
    obtain ⟨hmem, hid⟩ := posting?_mem hp
    have hpos := List.length_pos_of_mem hmem
    have herase : (s.post.list.eraseP fun q => q.id == id).length = s.post.list.length - 1 :=
      List.length_eraseP_of_mem hmem (by simpa using hid)
    simp only [State.reportSum, enqueue_queue, enqueue_frame, List.length_append, List.length_singleton, onAccess_post,
      onAccess_port, onPost_port, onPost_post, herase]
    omega

theorem setPosting_sum (p : Posting) (s : State) : (setPosting p s).reportSum = s.reportSum := by
  simp [State.reportSum, setPosting]

theorem completionTest_sum (id : Byte) (s : State) : (completionTest id s).reportSum = s.reportSum := by
  unfold completionTest
  split
  · rfl
  · split
    · exact finishPosting_sum _ _ _
    · rfl

theorem absentNotice_sum (p : StationNo) (s : State) : (absentNotice p s).reportSum = s.reportSum := by
  refine foldl_keeps s State.reportSum _ _ fun u id => ?_
  unfold absentAtPosting
  split
  · rfl
  · rw [completionTest_sum, setPosting_sum]

theorem reportSum_congr {s t : State} (hport : t.port = s.port) (hpost : t.post = s.post) :
    t.reportSum = s.reportSum := by
  rw [State.reportSum, hport, hpost, State.reportSum]

theorem change_keeps_room {s t : State} (hc : Change s t) (h : s.reportSum ≤ 48) : t.reportSum ≤ 48 := by
  cases hc with
  | plain hp =>
    have hqueue := hp.queue
    have hlist := hp.list
    simp only [State.reportSum, hlist] at h ⊢
    omega
  | report b => exact queueReport_sum s b h
  | finish id o => rwa [finishPosting_sum]
  | posting q => rwa [setPosting_sum]
  | join body target hjoin =>
    have := hjoin.room
    simp only [State.reportSum, joinList, onPost_port, onPost_post, List.length_append, List.length_singleton] at this ⊢
    omega
  | absent x cause he =>
    rw [makeAbsent, absentNotice_sum]
    exact queueReport_sum _ _ (by rwa [reportSum_congr (s := s) (by simp) (by simp)])
  | leave | place | peer | sample | beat | station | clear =>
    rwa [reportSum_congr (s := s) (by simp [placeHeld]) (by simp [placeHeld])]
  | reset | restart => simp [State.reportSum, resetStation, restartStation, State.powerOn, LocalPort.reset]

/-- Settles O56: a report is admitted below the sum of 48, a posting joins below it, and one that finishes hands its place
to its report. -/
theorem reportRoomLawIsKept : Obligations.ReportRoomLawIsKept := by
  intro s t h hstep
  exact step_keeps_of_changes (P := fun s => s.reportSum ≤ 48) (fun _ _ => change_keeps_room)
    (fun s kind _ h => by rwa [reportSum_congr (s := s) (by simp) (by simp)]) h hstep

/-! ### The timebase and the runs in PREP (R202, R56) -/

/-- Laws 6 and 9 as what stands in PREP. -/
structure State.QuietInPrep (s : State) : Prop where
  tbState : s.control.station = .prep → s.tb.tbState ≠ .locked ∧ s.tb.tbState ≠ .holdover
  runs : s.control.station = .prep → ∀ c o, s.chan c = .output o → o.run = .idle

theorem quietInPrep_iff (s : State) : s.QuietInPrep ↔ Law6 s ∧ Law9 s := by
  constructor
  · intro h
    exact ⟨fun hsettled hprep => hsettled.elim (h.tbState hprep).1 (h.tbState hprep).2,
      fun c o ho hrun hprep => hrun (h.runs hprep c o ho)⟩
  · rintro ⟨h6, h9⟩
    exact ⟨fun hprep => ⟨fun hl => h6 (Or.inl hl) hprep, fun hh => h6 (Or.inr hh) hprep⟩,
      fun hprep c o ho => by_contra fun hrun => h9 c o ho hrun hprep⟩

theorem State.AtRest.quietInPrep {s : State} (h : s.AtRest) : s.QuietInPrep :=
  ⟨fun _ => by simp [h.tbState], fun _ => h.runs⟩

/-- Laws 6 and 9 read the timebase state, the channels and the station state alone. -/
theorem State.QuietInPrep.congr {s t : State} (h : s.QuietInPrep) (htb : t.tb.tbState = s.tb.tbState)
    (hchans : t.chans = s.chans) (hstation : t.control.station = s.control.station) : t.QuietInPrep := by
  refine ⟨fun hprep => htb ▸ h.tbState (hstation ▸ hprep), fun hprep c o ho => h.runs (hstation ▸ hprep) c o ?_⟩
  simpa [State.chan, hchans] using ho

theorem Plain.quietInPrep {s t : State} (hp : Plain s t) (h : s.QuietInPrep) : t.QuietInPrep := by
  refine ⟨fun hprep => ?_, fun hprep c o ho => ?_⟩ <;> have hbefore : s.control.station = .prep := hp.station ▸ hprep
  · obtain htb | hopen := hp.tbState
    · exact htb ▸ h.tbState hbefore
    · exact absurd hbefore hopen
  · obtain hchans | hruns := hp.runs
    · exact h.runs hbefore c o (by simpa [State.chan, hchans] using ho)
    · obtain hsame | hidle := hruns hbefore c o ho
      · exact h.runs hbefore c o hsame
      · exact hidle

theorem resetStation_atRest (own : StationNo) (rate : BitVec 2) (s : State) : (resetStation own rate s).AtRest :=
  ⟨rfl, fun c o ho => by simp [State.chan, resetStation, State.powerOn] at ho⟩

theorem restartStation_atRest (s : State) : (restartStation s).AtRest := by
  refine ⟨rfl, fun c o ho => ?_⟩
  rw [chan_ofFn _ rfl] at ho
  exact setUp_idle ho

theorem change_keeps_quietInPrep {s t : State} (hc : Change s t) (h : s.QuietInPrep) : t.QuietInPrep := by
  cases hc with
  | plain hp => exact hp.quietInPrep h
  | station f hprep hlist =>
    exact ⟨fun hnew => by simp [(hprep hnew).tbState], fun hnew => (hprep hnew).runs⟩
  | clear _ => exact (clearForPrep_atRest s).quietInPrep
  | reset own rate => exact (resetStation_atRest own rate s).quietInPrep
  | restart => exact (restartStation_atRest s).quietInPrep
  | report | finish | posting | join | leave | place | peer | absent | sample | beat =>
    exact h.congr (by simp [placeHeld, joinList]) (by simp [placeHeld, joinList]) (by simp [placeHeld, joinList])

/-- Settles O57: a settled timebase and a run come about outside PREP alone, and the station reaches PREP at rest. -/
theorem prepLawsAreKept : Obligations.PrepLawsAreKept := by
  intro s t h6 h9 hstep
  rw [← quietInPrep_iff]
  exact step_keeps_of_changes (P := State.QuietInPrep) (fun _ _ => change_keeps_quietInPrep)
    (fun s kind _ h => h.congr rfl rfl rfl) ((quietInPrep_iff s).mpr ⟨h6, h9⟩) hstep

end Sys2Proof.Machine

/-! PROOFS. The posting list: what each change does to it, and the ABSENT notice posting by posting (R118). -/

namespace Sys2Proof.Machine

/-! ### A posting rewritten or taken away -/

/-- The ids of the list are kept by a posting written back. -/
theorem ids_setPosting (q : Posting) (s : State) :
    (setPosting q s).post.list.map Posting.id = s.post.list.map Posting.id := by
  simp only [setPosting, onPost_post, List.map_map]
  refine List.map_congr_left fun x _ => ?_
  by_cases h : x.id = q.id <;> simp [h]

/-- The bodies of the list are kept by a posting written back with its body. -/
theorem bodies_setPosting {p q : Posting} {s : State} (hp : p ∈ s.post.list) (hrewrite : p.Rewrites q)
    (hids : (s.post.list.map Posting.id).Nodup) :
    (setPosting q s).post.list.map Posting.body = s.post.list.map Posting.body := by
  simp only [setPosting, onPost_post, List.map_map]
  refine List.map_congr_left fun x hx => ?_
  by_cases h : x.id = q.id
  · have hxp : x = p := List.inj_on_of_nodup_map hids hx hp (h.trans hrewrite.id)
    subst hxp
    simp [h, hrewrite.body]
  · simp [h]

/-- A posting after one was written back is that one, or stood there before. -/
theorem mem_setPosting {q x : Posting} {s : State} (h : x ∈ (setPosting q s).post.list) : x = q ∨ x ∈ s.post.list := by
  simp only [setPosting, onPost_post, List.mem_map] at h
  obtain ⟨y, hy, rfl⟩ := h
  split
  · exact Or.inl rfl
  · exact Or.inr hy

/-- A posting that finishes takes nothing else from the list. -/
theorem finishPosting_sublist (id : Byte) (o : PostOutcome) (s : State) :
    (finishPosting id o s).post.list.Sublist s.post.list := by
  unfold finishPosting
  split
  · exact .refl _
  · simpa using List.eraseP_sublist

/-! ### The ABSENT notice (R118) -/

/-- A posting that does not expect a station has nothing to lose by its absence. -/
theorem markGone_of_not_expects {station : StationNo} {p : Posting} (h : p.expects station = false) :
    p.markGone station = p := by
  have hother : ∀ e ∈ p.expected, ¬ (e.station == station) = true := by
    intro e he heq
    have : p.expects station = true := List.any_eq_true.mpr ⟨e, he, heq⟩
    simp [h] at this
  have hexpected : p.expected.map (fun e =>
      if e.station == station then { e with answers := e.answers.map fun a => if a == .none then .gone else a } else e)
        = p.expected := by
    conv_rhs => rw [← List.map_id p.expected]
    exact List.map_congr_left fun e he => if_neg (hother e he)
  unfold Posting.markGone
  rw [hexpected]

@[simp] theorem markGone_id (station : StationNo) (p : Posting) : (p.markGone station).id = p.id := rfl

@[simp] theorem markGone_body (station : StationNo) (p : Posting) : (p.markGone station).body = p.body := rfl

@[simp] theorem markGone_sent (station : StationNo) (p : Posting) : (p.markGone station).sent = p.sent := rfl

/-- The expected stations after the absence of one: those of before, and the absent one with no answer missing. -/
theorem mem_markGone {station : StationNo} {p : Posting} {e : Expected} (h : e ∈ (p.markGone station).expected) :
    ∃ d ∈ p.expected, e.station = d.station ∧ (Answer.none ∈ e.answers → Answer.none ∈ d.answers)
      ∧ (e.station = station → Answer.none ∉ e.answers) := by
  obtain ⟨d, hd, rfl⟩ := List.mem_map.mp h
  refine ⟨d, hd, by split <;> rfl, fun hnone => ?_, fun hstation => ?_⟩
  · split at hnone
    · obtain ⟨a, ha, hgone⟩ := List.mem_map.mp hnone
      by_cases hmissing : a = .none <;> simp_all
    · exact hnone
  · split at hstation
    · next heq =>
      rw [if_pos heq]
      simp only [List.mem_map, not_exists, not_and]
      intro a _
      by_cases hmissing : a = .none <;> simp [hmissing]
    · next hne => exact absurd (by simpa using hstation) hne

/-- The absence of a station is the last answer a posting waits for (R117, R118). -/
def Posting.endsAt (station : StationNo) (p : Posting) : Bool :=
  p.expects station && decide (1 ≤ p.sent) && (p.markGone station).answered

/-- The postings of a list that an absence does not end, their missing answers GONE. -/
def goneList (station : StationNo) (l : List Posting) : List Posting :=
  (l.filter fun p => !p.endsAt station).map (Posting.markGone station)

/-- The frame in flight when some postings have left the list (R168, log 25). -/
def Flight.loseAll (ids : List Byte) (f : Flight) : Flight :=
  match f.kind with
  | .posting id _ => if id ∈ ids then { f with lost := true } else f
  | .leavingBeat | .dueBeat | .mark _ _ | .receiptsBeat => f

@[simp] theorem loseAll_nil (f : Flight) : f.loseAll [] = f := by
  unfold Flight.loseAll
  split <;> simp

theorem loseAll_cons (id : Byte) (ids : List Byte) (f : Flight) :
    f.loseAll (id :: ids) = (f.losePosting id).loseAll ids := by
  unfold Flight.loseAll Flight.losePosting
  cases hkind : f.kind with
  | posting i w => by_cases h : i = id <;> by_cases h' : i ∈ ids <;> simp [h, h', hkind]
  | leavingBeat | dueBeat | mark | receiptsBeat => simp [hkind]

theorem map_loseAll_cons (id : Byte) (ids : List Byte) (f : Option Flight) :
    f.map (Flight.loseAll (id :: ids)) = (f.map (Flight.losePosting id)).map (Flight.loseAll ids) := by
  rw [Option.map_map]
  exact congrArg (Option.map · f) (funext (loseAll_cons id ids))

/-- The COMPLETE reports of the postings that an absence ends, in list order (R122). -/
def goneReports (station : StationNo) (l : List Posting) : List ReportBody :=
  (l.filter (Posting.endsAt station)).map fun p => .postingDone ((p.markGone station).doneReport .complete)

/-- Reports of finished postings take their reserved places one after another (R107). -/
def enqueueAll (bodies : List ReportBody) (s : State) : State := bodies.foldl (fun s b => enqueue b s) s

theorem enqueueAll_cons (b : ReportBody) (bs : List ReportBody) (s : State) :
    enqueueAll (b :: bs) s = enqueueAll bs (enqueue b s) := rfl

theorem enqueueAll_frame (bs : List ReportBody) (s : State) :
    enqueueAll bs s = { s with port := (enqueueAll bs s).port } := by
  induction bs generalizing s with
  | nil => rfl
  | cons b bs ih =>
    rw [enqueueAll_cons, ih]
    rfl

/-- The one posting with an id, taken away from between the others. -/
theorem eraseP_id_middle {front rest : List Posting} {p : Posting} (h : ∀ x ∈ front, x.id ≠ p.id) :
    (front ++ p :: rest).eraseP (fun x => x.id = p.id) = front ++ rest := by
  rw [List.eraseP_append_right _ (by simpa using h)]
  simp

/-- The one posting with an id, written back between the others. -/
theorem map_id_middle {front rest : List Posting} {p q : Posting} (hfront : ∀ x ∈ front, x.id ≠ p.id)
    (hrest : ∀ x ∈ rest, x.id ≠ p.id) :
    (front ++ p :: rest).map (fun x => if x.id = p.id then q else x) = front ++ q :: rest := by
  have hkeep : ∀ l : List Posting, (∀ x ∈ l, x.id ≠ p.id) → l.map (fun x => if x.id = p.id then q else x) = l := by
    intro l hl
    conv_rhs => rw [← List.map_id l]
    exact List.map_congr_left fun x hx => if_neg (hl x hx)
  rw [List.map_append, List.map_cons, hkeep front hfront, hkeep rest hrest]
  simp

/-- With no two ids alike, the others of a list have other ids. -/
theorem id_ne_of_nodup_middle {front rest : List Posting} {p : Posting}
    (h : ((front ++ p :: rest).map Posting.id).Nodup) :
    (∀ x ∈ front, x.id ≠ p.id) ∧ (∀ x ∈ rest, x.id ≠ p.id) ∧ ((front ++ rest).map Posting.id).Nodup := by
  rw [List.map_append, List.map_cons, List.nodup_middle, List.nodup_cons, ← List.map_append] at h
  obtain ⟨hnew, hnodup⟩ := h
  exact ⟨fun x hx heq => hnew (heq ▸ List.mem_map_of_mem (List.mem_append_left _ hx)),
    fun x hx heq => hnew (heq ▸ List.mem_map_of_mem (List.mem_append_right _ hx)), hnodup⟩

/-- The ABSENT notice over the end of the list, whose beginning has taken it. -/
theorem absentNotice_rest (station : StationNo) (rest front : List Posting) (s : State)
    (hlist : s.post.list = front ++ rest) (hids : (s.post.list.map Posting.id).Nodup) :
    ((rest.filter fun p => p.expects station).map Posting.id).foldl (fun s id => absentAtPosting station id s) s
      = enqueueAll (goneReports station rest) { s with
          post := { s.post with list := front ++ goneList station rest }
          access := { s.access with
            flight := s.access.flight.map (Flight.loseAll ((rest.filter (Posting.endsAt station)).map Posting.id)) } } := by
  induction rest generalizing front s with
  | nil =>
    have hflight : s.access.flight.map (Flight.loseAll []) = s.access.flight := by cases s.access.flight <;> simp
    have hsame : front ++ goneList station [] = s.post.list := by simp [goneList, hlist]
    simp only [List.filter_nil, List.map_nil, List.foldl_nil, hflight, hsame]
    rfl
  | cons p rest ih =>
    have hmem : p ∈ s.post.list := by simp [hlist]
    obtain ⟨hfront, hrest, hnodup⟩ := id_ne_of_nodup_middle (hlist ▸ hids)
    cases hexpects : p.expects station with
    | false =>
      have hstays : p.endsAt station = false := by simp [Posting.endsAt, hexpects]
      have htail := ih (front ++ [p]) s (by simp [hlist]) hids
      simp only [List.filter_cons, hexpects, hstays, goneReports, goneList] at htail ⊢
      simpa [markGone_of_not_expects hexpects] using htail
    | true =>
      have hfound : s.posting? p.id = some p := find_posting_of_mem _ p hmem hids
      have hfirst : absentAtPosting station p.id s = completionTest p.id (setPosting (p.markGone station) s) := by
        simp [absentAtPosting, hfound]
      rw [completionTest_setPosting s p (p.markGone station) hids hmem rfl, hlist, eraseP_id_middle hfront, map_id_middle hfront hrest]
        at hfirst
      simp only [List.filter_cons, hexpects, if_true, List.map_cons, List.foldl_cons, hfirst]
      by_cases hends : 1 ≤ (p.markGone station).sent ∧ (p.markGone station).answered
      · have hend : p.endsAt station = true := by
          simpa [Posting.endsAt, hexpects] using hends
        rw [if_pos hends, ih front _ rfl hnodup]
        simp only [goneReports, goneList, List.filter_cons, hend, if_true, List.map_cons, enqueueAll_cons,
          Bool.not_true, Bool.false_eq_true, if_false, map_loseAll_cons]
        rfl
      · have hstays : p.endsAt station = false := by
          rw [Posting.endsAt, hexpects]
          simpa using hends
        have hids' : ((front ++ p.markGone station :: rest).map Posting.id).Nodup := by
          simpa [hlist] using hids
        rw [if_neg hends, ih (front ++ [p.markGone station]) _ (by simp) hids']
        simp only [goneReports, goneList, List.filter_cons, hstays, Bool.not_false, if_true, List.map_cons,
          Bool.false_eq_true, if_false, List.append_assoc, List.singleton_append]

/-- The ABSENT notice (R118): the missing answers of the station are GONE, and the postings it was the last to answer finish
COMPLETE in list order (R117, R122). -/
theorem absentNotice_eq (station : StationNo) (s : State) (hids : (s.post.list.map Posting.id).Nodup) :
    absentNotice station s = enqueueAll (goneReports station s.post.list) { s with
      post := { s.post with list := goneList station s.post.list }
      access := { s.access with
        flight := s.access.flight.map (Flight.loseAll ((s.post.list.filter (Posting.endsAt station)).map Posting.id)) } } :=
  absentNotice_rest station s.post.list [] s rfl hids

/-- The list after the ABSENT notice. -/
theorem absentNotice_list (station : StationNo) (s : State) (hids : (s.post.list.map Posting.id).Nodup) :
    (absentNotice station s).post.list = goneList station s.post.list := by
  rw [absentNotice_eq station s hids, enqueueAll_frame]

end Sys2Proof.Machine

namespace Sys2Proof.Machine

/-! ### The bounds of the list (R103) -/

/-- Law 4 reads the ids, the bodies and the station state alone. -/
theorem law4_congr {s t : State} (hids : t.post.list.map Posting.id = s.post.list.map Posting.id)
    (hbodies : t.post.list.map Posting.body = s.post.list.map Posting.body)
    (hstation : t.control.station = s.control.station) (h : Law4 s) : Law4 t := by
  obtain ⟨hlength, hserials, hnodup, hfits, hactive⟩ := h
  have hserialsOf : ∀ l : List Posting, l.flatMap Posting.serials = (l.map Posting.body).flatMap PostBody.serials := by
    intro l
    rw [List.flatMap_map]
    exact List.flatMap_congr fun p _ => Posting.serials_eq p
  refine ⟨?_, ?_, hids ▸ hnodup, fun p hp => ?_, fun hnot => ?_⟩
  · rwa [← List.length_map (f := Posting.id), hids, List.length_map]
  · rwa [hserialsOf, hbodies, ← hserialsOf]
  · have hmem : p.body ∈ s.post.list.map Posting.body := hbodies ▸ List.mem_map_of_mem hp
    obtain ⟨q, hq, hqp⟩ := List.mem_map.mp hmem
    exact hqp ▸ hfits q hq
  · rw [← List.map_eq_nil_iff (f := Posting.id), hids, hactive (hstation ▸ hnot), List.map_nil]

/-- A list that only loses postings keeps its bounds. -/
theorem law4_of_sublist {s t : State} (hlist : t.post.list.Sublist s.post.list)
    (hstation : t.control.station = s.control.station) (h : Law4 s) : Law4 t := by
  obtain ⟨hlength, hserials, hnodup, hfits, hactive⟩ := h
  refine ⟨hlist.length_le.trans hlength, hserials.sublist (hlist.flatMap _), hnodup.sublist (hlist.map _),
    fun p hp => hfits p (hlist.subset hp), fun hnot => ?_⟩
  rw [hactive (hstation ▸ hnot)] at hlist
  exact List.sublist_nil.mp hlist

/-- The postings of the list carry at most 64 serials. -/
theorem length_carriedSerials_le {s : State} (h : Law4 s) : s.carriedSerials.length ≤ 64 := by
  obtain ⟨hlength, -, -, hfits, -⟩ := h
  have hbound : ∀ l : List Posting, (∀ p ∈ l, p.body.fits) → (l.flatMap Posting.serials).length ≤ 8 * l.length := by
    intro l
    induction l with
    | nil => simp
    | cons p l ih =>
      intro hl
      have hp : p.serials.length ≤ 8 := by
        have := hl p List.mem_cons_self
        cases hbody : p.body <;> simp [Posting.serials_eq, PostBody.serials, PostBody.fits, hbody] at this ⊢ <;> omega
      have := ih fun q hq => hl q (List.mem_cons_of_mem _ hq)
      simp only [List.flatMap_cons, List.length_append, List.length_cons]
      omega
  have := hbound s.post.list hfits
  unfold State.carriedSerials
  omega

/-- A checked posting joins within the bounds, with serials and an id of its own (R105, R106). -/
theorem law4_joinList {s : State} {body : PostBody} (hjoin : s.MayJoin body) (target : Target) (h : Law4 s) :
    Law4 (joinList (s.newPosting s.freeId body target) s) := by
  obtain ⟨hnodup, hfresh⟩ := hjoin.fresh (length_carriedSerials_le h)
  obtain ⟨hlength, hserials, hids, hfits, hactive⟩ := h
  have hlist := hjoin.list
  refine ⟨?_, ?_, ?_, ?_, fun hnot => absurd hjoin.active (by simpa using hnot)⟩ <;>
    simp only [joinList, onPost_post, List.flatMap_append, List.flatMap_singleton, List.map_append, List.map_singleton,
      List.mem_append, List.mem_singleton, List.length_append, List.length_singleton]
  · omega
  · rw [Posting.serials_eq]
    refine List.nodup_append.mpr ⟨hserials, hnodup, fun v hv w hw heq => ?_⟩
    subst heq
    exact hfresh v hw hv
  · refine List.nodup_append.mpr ⟨hids, List.nodup_singleton _, fun i hi j hj heq => ?_⟩
    obtain ⟨q, hq, rfl⟩ := List.mem_map.mp hi
    exact freeId_not_mem s hlist q hq (heq.trans (List.mem_singleton.mp hj))
  · rintro p (hp | rfl)
    · exact hfits p hp
    · exact hjoin.fits

/-- The list of postings before and after a peer is made ABSENT. -/
theorem makeAbsent_list (p : StationNo) (x : Peer) (cause : RosterCause) {s : State} (h : Law4 s) :
    (makeAbsent p x cause s).post.list = goneList p s.post.list := by
  obtain ⟨-, -, hids, -, -⟩ := h
  rw [makeAbsent, absentNotice_list _ _ (by simpa using hids)]
  simp

theorem law4_makeAbsent (p : StationNo) (x : Peer) (cause : RosterCause) {s : State} (h : Law4 s) :
    Law4 (makeAbsent p x cause s) := by
  have hkept : Law4 { s with post := { s.post with list := s.post.list.filter fun q => !q.endsAt p } } :=
    law4_of_sublist List.filter_sublist rfl h
  refine law4_congr ?_ ?_ ?_ hkept <;> simp [makeAbsent_list _ _ _ h, goneList, Function.comp_def]

theorem change_keeps_law4 {s t : State} (hc : Change s t) (h : Law4 s) : Law4 t := by
  cases hc with
  | plain hp => exact law4_congr (by rw [hp.list]) (by rw [hp.list]) hp.station h
  | finish id o => exact law4_of_sublist (finishPosting_sublist id o s) (by simp) h
  | posting q hp hrewrite =>
    obtain ⟨-, -, hids, -, -⟩ := id h
    exact law4_congr (ids_setPosting q s) (bodies_setPosting hp hrewrite hids) (by simp) h
  | join body target hjoin => exact law4_joinList hjoin target h
  | absent x cause _ => exact law4_makeAbsent _ x cause h
  | station f _ hlist =>
    obtain ⟨hlength, hserials, hids, hfits, hactive⟩ := h
    refine ⟨hlength, hserials, hids, hfits, fun hnot => ?_⟩
    by_cases hs : s.control.station = .active
    · exact hlist hs hnot
    · exact hactive hs
  | reset | restart => simp [Law4, resetStation, restartStation, State.powerOn]
  | report | leave | place | peer | sample | beat | clear =>
    exact law4_congr (by simp [placeHeld]) (by simp [placeHeld]) (by simp [placeHeld, clearForPrep]) h

theorem law4_startFrame (kind : FlightKind) {s : State} (h : Law4 s) : Law4 (startFrame kind s) :=
  law4_congr (by simp) (by simp) (by simp) h

/-! ### The own entry and the expected stations (R86, R108) -/

/-- The own entry is SELF, and no other is (Law 11). -/
def State.SelfIsOwn (s : State) : Prop := ∀ p, s.entry p = .self ↔ p = s.sig.own

theorem State.SelfIsOwn.congr {s t : State} (h : s.SelfIsOwn) (hentries : t.roster.entries = s.roster.entries)
    (hown : t.sig.own = s.sig.own) : t.SelfIsOwn := by
  intro p
  rw [State.entry, hentries, hown]
  exact h p

/-- A peer's entry written stays a peer's. -/
theorem entry_setPeer_eq_self (p q : StationNo) (x : Peer) (s : State) :
    (setPeer p x s).entry q = .self ↔ s.entry q = .self := by
  unfold setPeer
  split
  · exact Iff.rfl
  · next e he =>
    by_cases hq : q = p
    · subst hq
      simp [State.entry] at he ⊢
      simp [he]
    · have hne : p.toNat ≠ q.toNat := fun heq => hq (BitVec.eq_of_toNat_eq heq.symm)
      simp [State.entry, Vector.getElem_set_ne _ _ hne]

theorem State.SelfIsOwn.setPeer {s : State} (h : s.SelfIsOwn) (p : StationNo) (x : Peer) :
    (setPeer p x s).SelfIsOwn := fun q => by
  rw [entry_setPeer_eq_self]
  simpa using h q

/-- The roster as a reset clears it (R86, R101). -/
theorem clearedEntries_getElem (own p : StationNo) :
    (clearedEntries own)[p.toNat] = if p = own then .self else .peer Peer.cleared := by
  simp [clearedEntries, BitVec.toNat_inj]

theorem selfIsOwn_of_cleared {s : State} (h : s.roster.entries = clearedEntries s.sig.own) : s.SelfIsOwn := by
  intro p
  rw [State.entry, h, clearedEntries_getElem]
  split <;> simp_all

theorem makeAbsent_entry (p : StationNo) (x : Peer) (cause : RosterCause) (s : State) :
    (makeAbsent p x cause s).roster = (setPeer p x.toAbsent s).roster := by simp [makeAbsent]

theorem change_keeps_selfIsOwn {s t : State} (hc : Change s t) (h : s.SelfIsOwn) : t.SelfIsOwn := by
  cases hc with
  | plain hp => exact h.congr hp.entries hp.own
  | peer x he _ => exact h.setPeer _ x
  | beat x y he _ _ => exact (h.setPeer _ x).congr rfl rfl
  | absent x cause _ => exact (h.setPeer _ x.toAbsent).congr (by rw [makeAbsent_entry]) (by simp)
  | clear _ => exact selfIsOwn_of_cleared rfl
  | reset own rate => exact selfIsOwn_of_cleared rfl
  | restart => exact selfIsOwn_of_cleared rfl
  | report | finish | posting | join | leave | place | sample | station =>
    exact h.congr (by simp [placeHeld]) (by simp [placeHeld])

theorem peer?_eq_none_iff (s : State) (p : StationNo) : s.peer? p = none ↔ s.entry p = .self := by
  unfold State.peer?
  split <;> simp_all

/-- No expected set holds the own number (R108). -/
theorem station_ne_own_of_expectedSet {s : State} (h : s.SelfIsOwn) {target : Target} {n : Nat} {e : Expected}
    (he : e ∈ s.expectedSet target n) : e.station ≠ s.sig.own := by
  have hpeer : ∀ p, s.expectedPeer target p = true → p ≠ s.sig.own := by
    intro p hp heq
    have hnone := (peer?_eq_none_iff s p).mpr ((h p).mpr heq)
    simp [State.expectedPeer, hnone] at hp
  unfold State.expectedSet at he
  split at he
  · split at he
    · simp at he
    · next hne => simpa [List.mem_singleton.mp he] using hne
  all_goals
    obtain ⟨p, hp, rfl⟩ := List.mem_map.mp he
    exact hpeer p (List.mem_filter.mp hp).2

/-- An expected station that is ABSENT is answered from the start (R108). -/
theorem answered_of_absent_of_expectedSet {s : State} {target : Target} {n : Nat} {e : Expected}
    (he : e ∈ s.expectedSet target n) (habsent : s.isAbsent e.station = true) : Answer.none ∉ e.answers := by
  have hpeer : ∀ p, s.expectedPeer target p = true → s.isAbsent p = false := by
    intro p hp
    unfold State.expectedPeer at hp
    unfold State.isAbsent
    split at hp <;> simp_all
  unfold State.expectedSet at he
  split at he
  · split at he
    · simp at he
    · obtain rfl := List.mem_singleton.mp he
      simp only [habsent, if_true]
      simp [List.mem_replicate]
  all_goals
    obtain ⟨p, hp, rfl⟩ := List.mem_map.mp he
    simp [hpeer p (List.mem_filter.mp hp).2] at habsent

/-! ### What the postings expect (Laws 8 and 11) -/

/-- Laws 8 and 11 of the expected sets: nobody expects the own number, and no answer is missing from an ABSENT station. -/
def State.ExpectsWell (s : State) (p : Posting) : Prop :=
  ∀ e ∈ p.expected, e.station ≠ s.sig.own ∧ (s.isAbsent e.station = true → Answer.none ∉ e.answers)

theorem expectsWell_iff (s : State) :
    (∀ p ∈ s.post.list, s.ExpectsWell p) ↔ Law8 s ∧ ∀ p ∈ s.post.list, ∀ e ∈ p.expected, e.station ≠ s.sig.own :=
  ⟨fun h => ⟨fun p hp e he => (h p hp e he).2, fun p hp e he => (h p hp e he).1⟩,
    fun ⟨h8, h11⟩ p hp e he => ⟨h11 p hp e he, h8 p hp e he⟩⟩

/-- A posting expects as well when no station has become ABSENT. -/
theorem State.ExpectsWell.mono {s t : State} {p : Posting} (h : s.ExpectsWell p) (hown : t.sig.own = s.sig.own)
    (habsent : ∀ q, t.isAbsent q = true → s.isAbsent q = true) : t.ExpectsWell p :=
  fun e he => ⟨hown ▸ (h e he).1, fun ha => (h e he).2 (habsent _ ha)⟩

theorem State.ExpectsWell.rewrites {s : State} {p q : Posting} (h : s.ExpectsWell p) (hrewrite : p.Rewrites q) :
    s.ExpectsWell q := by
  intro e he
  obtain ⟨d, hd, hstation, hnone⟩ := hrewrite.expected e he
  exact ⟨hstation ▸ (h d hd).1, fun ha hmissing => (h d hd).2 (hstation ▸ ha) (hnone hmissing)⟩

/-- With no posting taken up and no station gone ABSENT, the postings expect as well as before. -/
theorem expectsWell_of_subset {s t : State} (h : ∀ p ∈ s.post.list, s.ExpectsWell p)
    (hlist : ∀ p ∈ t.post.list, p ∈ s.post.list) (hown : t.sig.own = s.sig.own)
    (hentries : t.roster.entries = s.roster.entries) : ∀ p ∈ t.post.list, t.ExpectsWell p :=
  fun p hp => (h p (hlist p hp)).mono hown fun q hq => by
    simpa [State.isAbsent, State.peer?, State.entry, hentries] using hq

/-- A peer written with an entry that is not ABSENT, or was before, leaves no other station ABSENT. -/
theorem isAbsent_of_setPeer {s : State} {p q : StationNo} {e x : Peer} (he : s.peer? p = some e)
    (hx : x.state = .absent → e.state = .absent) (h : (setPeer p x s).isAbsent q = true) : s.isAbsent q = true := by
  simp only [State.isAbsent, peer?_setPeer p q x e s he] at h ⊢
  by_cases hq : q = p
  · subst hq
    simp_all
  · simpa [hq] using h

/-- A peer made ABSENT has no answer missing (R91, R118). -/
theorem expectsWell_makeAbsent {s : State} {p : StationNo} {e : Peer} (x : Peer) (cause : RosterCause)
    (he : s.peer? p = some e) (h4 : Law4 s) (h : ∀ q ∈ s.post.list, s.ExpectsWell q) :
    ∀ q ∈ (makeAbsent p x cause s).post.list, (makeAbsent p x cause s).ExpectsWell q := by
  rw [makeAbsent_list p x cause h4]
  intro q hq e' he'
  obtain ⟨r, hr, rfl⟩ := List.mem_map.mp hq
  obtain ⟨d, hd, hstation, hnone, hgone⟩ := mem_markGone he'
  obtain ⟨hown, hanswered⟩ := h r (List.mem_filter.mp hr).1 d hd
  refine ⟨by simpa [hstation] using hown, fun habsent => ?_⟩
  by_cases hp : e'.station = p
  · exact hgone hp
  · have hother : s.isAbsent d.station = true := by
      have hentry : (makeAbsent p x cause s).peer? e'.station = s.peer? e'.station := by
        rw [peer?_congr (setPeer p x.toAbsent s) _ (makeAbsent_entry p x cause s), peer?_setPeer p _ _ e s he, if_neg hp]
      rw [hstation] at hentry
      rw [State.isAbsent, hstation, hentry] at habsent
      exact habsent
    exact fun hmissing => hanswered hother (hnone hmissing)

theorem change_keeps_expectsWell {s t : State} (hc : Change s t) (h4 : Law4 s) (hself : s.SelfIsOwn)
    (h : ∀ p ∈ s.post.list, s.ExpectsWell p) : ∀ p ∈ t.post.list, t.ExpectsWell p := by
  cases hc with
  | plain hp => exact expectsWell_of_subset h (fun p hm => hp.list ▸ hm) hp.own hp.entries
  | finish id o => exact expectsWell_of_subset h (fun p hm => (finishPosting_sublist id o s).subset hm) (by simp) (by simp)
  | posting q hp hrewrite =>
    intro x hx
    obtain rfl | hold := mem_setPosting hx
    · exact ((h _ hp).rewrites hrewrite).mono (by simp) fun r hr => by
        simpa [State.isAbsent, State.peer?, State.entry] using hr
    · exact (h x hold).mono (by simp) fun r hr => by simpa [State.isAbsent, State.peer?, State.entry] using hr
  | join body target hjoin =>
    intro x hx
    simp only [joinList, onPost_post, List.mem_append, List.mem_singleton] at hx
    obtain hold | rfl := hx
    · exact (h x hold).mono rfl fun _ hr => hr
    · exact fun e he => ⟨station_ne_own_of_expectedSet hself he, fun ha => answered_of_absent_of_expectedSet he ha⟩
  | peer x he hrewrite =>
    exact fun q hq => (h q (by simpa using hq)).mono (by simp) fun r hr => isAbsent_of_setPeer he hrewrite.absent hr
  | beat x y he hx _ =>
    exact fun q hq => (h q (by simpa using hq)).mono (by simp) fun r hr =>
      isAbsent_of_setPeer he (fun habsent => absurd habsent hx) hr
  | absent x cause he => exact expectsWell_makeAbsent x cause he h4 h
  | clear hnot =>
    obtain ⟨-, -, -, -, hactive⟩ := h4
    simp [hactive hnot]
  | reset | restart => simp [resetStation, restartStation, State.powerOn]
  | report | leave | place | sample | station =>
    exact expectsWell_of_subset h (fun p hm => by simpa [placeHeld] using hm) (by simp [placeHeld]) (by simp [placeHeld])

/-- Laws 4, 8 and 11 in the parts each change is checked for. -/
structure State.PostsWell (s : State) : Prop where
  bounds : Law4 s
  self : s.SelfIsOwn
  expects : ∀ p ∈ s.post.list, s.ExpectsWell p

theorem postsWell_iff (s : State) : s.PostsWell ↔ Law4 s ∧ Law8 s ∧ Law11 s := by
  constructor
  · intro h
    obtain ⟨h8, hexpected⟩ := (expectsWell_iff s).mp h.expects
    exact ⟨h.bounds, h8, h.self, hexpected⟩
  · rintro ⟨h4, h8, hself, hexpected⟩
    exact ⟨h4, hself, (expectsWell_iff s).mpr ⟨h8, hexpected⟩⟩

/-- Settles O58: each change keeps the bounds of the list, the own entry and the expected sets. -/
theorem postingLawsAreKept : Obligations.PostingLawsAreKept := by
  intro s t h4 h8 h11 hstep
  rw [← postsWell_iff]
  refine step_keeps_of_changes (P := State.PostsWell)
    (fun _ _ hc h => ⟨change_keeps_law4 hc h.bounds, change_keeps_selfIsOwn hc h.self,
      change_keeps_expectsWell hc h.bounds h.self h.expects⟩)
    (fun s kind _ h => ⟨law4_startFrame kind h.bounds, h.self.congr rfl rfl,
      expectsWell_of_subset h.expects (fun _ hm => hm) rfl rfl⟩)
    ((postsWell_iff s).mpr ⟨h4, h8, h11⟩) hstep

end Sys2Proof.Machine

namespace Sys2Proof.Machine

/-! ### The size of a frame (R129, R145) -/

@[simp] theorem length_bytesOf (n v : Nat) : (bytesOf n v).length = n := by
  induction n with
  | zero => rfl
  | succ n ih => simp [bytesOf, ih]

@[simp] theorem length_targetBytes (target : Target) : target.bytes.length = 2 := by cases target <;> rfl

/-- A list of parts of at most n characters each. -/
theorem length_flatMap_le {α : Type} (f : α → List Byte) (n : Nat) (l : List α) (h : ∀ x ∈ l, (f x).length ≤ n) :
    (l.flatMap f).length ≤ n * l.length := by
  induction l with
  | nil => simp
  | cons x l ih =>
    have hx := h x List.mem_cons_self
    have hrest := ih fun y hy => h y (List.mem_cons_of_mem _ hy)
    simp only [List.flatMap_cons, List.length_append, List.length_cons, Nat.mul_add]
    omega

theorem length_recordBytes_le (r : CueRecord) : r.bytes.length ≤ 15 := by
  have hwidth : (if r.spec.action.usesWidth then bytesOf 3 (r.spec.width.getD 0).toNat else []).length ≤ 3 := by
    split <;> simp
  have hperiod : (if r.spec.action.usesPeriod then bytesOf 3 (r.spec.period.getD 0).toNat ++ [r.spec.count.getD 0]
      else []).length ≤ 4 := by split <;> simp
  simp only [CueRecord.bytes, List.length_append, List.length_cons, List.length_nil]
  cases r.spec.fire <;> simp only [List.length_nil, length_bytesOf] <;> omega

/-- A posting frame's body holds a target and at most 4 records or 8 serials (6.1). -/
theorem length_postingBytes_le {p : Posting} (h : p.body.fits) : p.bytes.length ≤ 64 := by
  unfold Posting.bytes
  cases hbody : p.body <;> simp only [hbody, PostBody.fits, List.length_append, length_targetBytes] at h ⊢
  case cue records =>
    have := length_flatMap_le CueRecord.bytes 15 records fun r _ => length_recordBytes_le r
    omega
  case withdraw serials =>
    simp only [List.length_cons]
    omega

theorem length_carried_le (m : MarkSide) : m.carried.length ≤ 6 := by
  unfold MarkSide.carried
  split
  · simp
  · simp [marksPerFrame]

theorem length_markBytes_le (m : MarkSide) : m.bytes.length ≤ 64 := by
  have hmarks := length_flatMap_le (fun x : OutMark => x.mark.bytes) 10 m.carried fun x _ => by simp [MarkRecord.bytes]
  have := length_carried_le m
  simp only [MarkSide.bytes, List.length_append, List.length_cons, List.length_nil]
  cases m.outgoing <;> simp only [List.length_nil, length_targetBytes] <;> omega

theorem length_bodyOf_le {s : State} (kind : FlightKind) (h : ∀ p ∈ s.post.list, p.body.fits) :
    (s.bodyOf kind).2.length ≤ 64 := by
  cases kind with
  | leavingBeat | dueBeat | receiptsBeat => simp [State.bodyOf, State.beatBytes]
  | mark => exact length_markBytes_le s.marks
  | posting id isWithdraw =>
    cases hp : s.posting? id with
    | none => simp [State.bodyOf, hp]
    | some p => simpa [State.bodyOf, hp] using length_postingBytes_le (h p (posting?_mem hp).1)

theorem length_trailer_le (s : State) : s.trailer.length ≤ 8 := by simp [State.trailer, receiptsPerFrame]

/-- A frame is at most 96 characters long: 6 in front, a body of at most 64, 8 receipts and the CRC (R145). -/
theorem length_frameCopy_le {s : State} (kind : FlightKind) (h : ∀ p ∈ s.post.list, p.body.fits) :
    (s.frameCopy kind).length ≤ 96 := by
  have hbody := length_bodyOf_le kind h
  have htrailer := length_trailer_le s
  have hreceipts := length_flatMap_le HeldReceipt.bytes 3 s.trailer fun r _ => by simp [HeldReceipt.bytes]
  simp only [State.frameCopy, State.frameContent, List.length_cons, List.length_append, List.length_nil, length_bytesOf]
  omega

/-! ### Receipts and copies (Laws 10 and 12) -/

/-- Laws 10 and 12 read the receipts, the record of the frame in flight and the copy. -/
theorem frameSizes_congr {s t : State} (hreceipts : t.access.receipts.length ≤ receiptCapacity ∨
      t.access.receipts.length ≤ s.access.receipts.length)
    (hflight : t.access.flight.map Flight.receipts = s.access.flight.map Flight.receipts ∨ t.access.flight = none)
    (hcopy : t.frames.copy = s.frames.copy ∨ t.frames.copy = none) (h : Law10 s ∧ Law12 s) : Law10 t ∧ Law12 t := by
  obtain ⟨⟨hlength, hcarried⟩, hsize⟩ := h
  refine ⟨⟨?_, fun f hf => ?_⟩, fun chars hchars => ?_⟩
  · simp only [receiptCapacity] at hreceipts
    omega
  · obtain hsame | hnone := hflight
    · rw [hf, Option.map_some] at hsame
      obtain ⟨g, hg, hgf⟩ := Option.map_eq_some_iff.mp hsame.symm
      exact hgf ▸ hcarried g hg
    · simp [hnone] at hf
  · obtain hsame | hnone := hcopy
    · exact hsize chars (hsame ▸ hchars)
    · simp [hnone] at hchars

/-- Nothing that settles postings changes how many receipts the frame in flight carries. -/
theorem finishPosting_flightReceipts (id : Byte) (o : PostOutcome) (s : State) :
    (finishPosting id o s).access.flight.map Flight.receipts = s.access.flight.map Flight.receipts := by
  have hlose : ∀ f : Flight, (f.losePosting id).receipts = f.receipts := fun f => by
    cases hkind : f.kind <;> simp [Flight.losePosting, hkind, apply_ite]
  unfold finishPosting
  split
  · rfl
  · simp [Option.map_map, Function.comp_def, hlose]

theorem absentNotice_flightReceipts (station : StationNo) (s : State) :
    (absentNotice station s).access.flight.map Flight.receipts = s.access.flight.map Flight.receipts := by
  refine foldl_keeps s (fun s => s.access.flight.map Flight.receipts) _ _ fun u id => ?_
  unfold absentAtPosting
  split
  · rfl
  · unfold completionTest
    split
    · simp
    · split <;> simp [finishPosting_flightReceipts]

theorem change_keeps_frameSizes {s t : State} (hc : Change s t) (h : Law10 s ∧ Law12 s) : Law10 t ∧ Law12 t := by
  cases hc with
  | plain hp => exact frameSizes_congr hp.receipts hp.flight hp.copy h
  | absent x cause =>
    obtain ⟨haccess, -, -⟩ := makeAbsent_settlesOnly _ x cause s
    refine frameSizes_congr (.inr ?_) (.inl ?_) (.inl (by simp)) h
    · rw [haccess]
    · simp [makeAbsent, absentNotice_flightReceipts]
  | finish id o =>
    obtain ⟨haccess, -, -⟩ := finishPosting_settlesOnly id o s
    exact frameSizes_congr (.inr (by rw [haccess])) (.inl (finishPosting_flightReceipts id o s)) (.inl (by simp)) h
  | clear => refine frameSizes_congr (.inr ?_) (.inl ?_) (.inl ?_) h <;> simp [clearForPrep, LineAccess.clearPending]
  | reset | restart =>
    refine frameSizes_congr (.inl ?_) (.inr ?_) (.inr ?_) h <;>
      simp [resetStation, restartStation, State.powerOn, LineAccess.reset, FrameUnit.reset]
  | report | posting | join | leave | place | peer | sample | beat | station =>
    refine frameSizes_congr (.inr ?_) (.inl ?_) (.inl ?_) h <;> simp [placeHeld, joinList]

/-- A started frame carries at most 8 receipts and is at most 96 characters long (R125, R145). -/
theorem frameSizes_startFrame {s : State} (kind : FlightKind) (h4 : Law4 s) (h : Law10 s ∧ Law12 s) :
    Law10 (startFrame kind s) ∧ Law12 (startFrame kind s) := by
  obtain ⟨⟨hlength, -⟩, -⟩ := h
  obtain ⟨-, -, -, hfits, -⟩ := h4
  refine ⟨⟨?_, fun f hf => ?_⟩, fun chars hchars => ?_⟩
  · cases kind <;> exact hlength
  · obtain rfl : s.flightOf kind = f := Option.some.inj hf
    exact length_trailer_le s
  · obtain rfl : s.frameCopy kind = chars := Option.some.inj hchars
    exact length_frameCopy_le kind hfits

/-- Settles O59: each change, and the start of a frame, keeps the sizes of frames and receipt lists. -/
theorem frameSizeLawsAreKept : Obligations.FrameSizeLawsAreKept := by
  intro s t h4 h10 h12 hstep
  have hkept := step_keeps_of_changes (P := fun s => Law4 s ∧ Law10 s ∧ Law12 s)
    (fun _ _ hc h => ⟨change_keeps_law4 hc h.1, change_keeps_frameSizes hc h.2⟩)
    (fun _ kind _ h => ⟨law4_startFrame kind h.1, frameSizes_startFrame kind h.1 h.2⟩) ⟨h4, h10, h12⟩ hstep
  exact hkept.2

/-! ### Where a frame starts (Law 7) -/

/-- No change but the start of a frame puts a frame in flight. -/
theorem change_keeps_noFlight {s t : State} (hc : Change s t) (h : s.access.flight = none) : t.access.flight = none := by
  cases hc with
  | plain hp =>
    obtain hsame | hnone := hp.flight
    · simpa [h] using hsame
    · exact hnone
  | absent x cause =>
    obtain ⟨-, -, hnone⟩ := makeAbsent_settlesOnly _ x cause s
    exact hnone h
  | finish id o =>
    obtain ⟨-, -, hnone⟩ := finishPosting_settlesOnly id o s
    exact hnone h
  | clear => simpa [clearForPrep, LineAccess.clearPending] using h
  | reset | restart => simp [resetStation, restartStation, State.powerOn, LineAccess.reset]
  | report | posting | join | leave | place | peer | sample | beat | station => simpa [placeHeld, joinList] using h

/-- A frame starts in ACTIVE or CLOSING alone, where a slot of the station's own begins (R157). -/
theorem slot_of_starting {s : State} {kind : FlightKind} (h : s.starting = some kind) :
    (s.control.station = .active ∨ s.control.station = .closing) ∧ s.ownSlotBegins = true := by
  unfold State.starting at h
  split at h
  · next hmay =>
    simp only [State.mayStart, Bool.and_eq_true, Bool.or_eq_true, beq_iff_eq] at hmay
    obtain ⟨⟨⟨⟨⟨hstation, -⟩, -⟩, hslot⟩, -⟩, -⟩ := hmay
    exact ⟨hstation, hslot⟩
  · cases h

theorem ownSlotBegins_iff (s : State) : s.ownSlotBegins = true ↔
    ∃ ref k, s.access.reference = some ref ∧ s.slotBeginning ref = some k ∧ slotOwner ref k = some s.sig.own := by
  unfold State.ownSlotBegins
  cases hreference : s.access.reference with
  | none => simp
  | some ref => cases hslot : s.slotBeginning ref <;> simp [hslot]

/-- Nobody owns a slot of the first round after a reference that is not GOOD (R156). -/
theorem le_of_slotOwner_of_not_good {ref : FrameEndRef} {k : Nat} {p : StationNo} (h : slotOwner ref k = some p)
    (hgood : ref.good = false) : 32 ≤ k := by
  by_contra hk
  simp [slotOwner, hgood, Nat.lt_of_not_le hk] at h

theorem SameSlot.slotBeginning {s u : State} (h : SameSlot s u) (ref : FrameEndRef) :
    u.slotBeginning ref = s.slotBeginning ref := by
  have hnow : u.now = s.now := h.localTime
  have hct : u.ct = s.ct := by simp only [State.ct, h.sig]
  unfold State.slotBeginning
  rw [hnow, hct]

/-- Settles O60: only the start of a frame puts one in flight, and it is made at the beginning of an own slot. -/
theorem framesStartOnlyInOwnedSlots : Obligations.FramesStartOnlyInOwnedSlots := by
  intro s t hstep hbefore hafter
  cases step_happens hstep with
  | changes hc =>
    exact absurd (hc.keeps (P := fun s => s.access.flight = none) (fun _ _ => change_keeps_noFlight) hbefore) hafter
  | starts u kind _ hsame hkind =>
    obtain ⟨hstation, hbegins⟩ := slot_of_starting hkind
    obtain ⟨ref, k, hreference, hslot, howner⟩ := (ownSlotBegins_iff u).mp hbegins
    rw [hsame.station] at hstation
    rw [hsame.reference] at hreference
    rw [hsame.slotBeginning] at hslot
    rw [hsame.sig] at howner
    exact ⟨hstation, ref, k, hreference, hslot, howner, le_of_slotOwner_of_not_good howner⟩

end Sys2Proof.Machine

namespace Sys2Proof.Machine

/-! ### The sweep of the roster (R91, R92) -/

theorem nodup_stations : stations.Nodup := by decide

theorem mem_stations (p : StationNo) : p ∈ stations := by
  refine List.mem_map.mpr ⟨p.toNat, List.mem_range.mpr p.isLt, ?_⟩
  simp

/-- The state an entry is swept to, and what it is swept to. -/
theorem afterSweep_eq (e : Peer) (beat : Nat) (now : Time) : e.afterSweep beat now = (e.swept beat now).state := by
  unfold Peer.afterSweep Peer.swept
  cases e.lastBeat with
  | none => rfl
  | some last => cases hstate : e.state <;> simp [elapsed, apply_ite Peer.state, hstate] <;> rfl

/-- The sweep moves an entry along three ways only. -/
theorem swept_cases (e : Peer) (beat : Nat) (now : Time) :
    e.swept beat now = e
    ∨ e.state = .present ∧ e.swept beat now = { e with state := .silent }
    ∨ (e.state = .joining ∨ e.state = .silent) ∧ e.swept beat now = e.toAbsent := by
  unfold Peer.swept
  split
  · exact .inl rfl
  · split
    · next h => exact .inr (.inl ⟨h.1, rfl⟩)
    · split
      · next h => exact .inr (.inr ⟨h.imp And.left And.left, rfl⟩)
      · exact .inl rfl

/-- What the sweep of one entry tells: its ROSTER_CHANGE, and the ABSENT notice of a peer that becomes ABSENT (R91, R92). -/
def Peer.tells (x : Peer) (p : StationNo) (new : PeerState) (u : State) : State :=
  if x.state ≠ .absent ∧ new = .absent then
    absentNotice p (queueReports (if new = x.state then [] else [.rosterChange p x.state new .sweep]) u)
  else queueReports (if new = x.state then [] else [.rosterChange p x.state new .sweep]) u

theorem setPeer_peer {s : State} {p : StationNo} {e : Peer} (he : s.peer? p = some e) : setPeer p e s = s := by
  have hentry : s.entry p = .peer e := by
    unfold State.peer? at he
    split at he <;> simp_all
  have hget : s.roster.entries[p.toNat] = .peer e := hentry
  have hset : s.roster.entries.set p.toNat (.peer e) = s.roster.entries := by
    rw [← hget]
    exact Vector.set_getElem_self ..
  simp only [setPeer, hentry, State.onRoster, hset]

/-- The sweep of one entry writes what it is swept to, and tells of the change. -/
theorem sweepEntry_of_peer {s : State} {p : StationNo} {e : Peer} (he : s.peer? p = some e) :
    sweepEntry s p = e.tells p (e.swept s.beat s.now).state (setPeer p (e.swept s.beat s.now) s) := by
  unfold sweepEntry
  simp only [he, afterSweep_eq]
  obtain h | ⟨hpresent, h⟩ | ⟨hstate, h⟩ := swept_cases e s.beat s.now
  · have hquiet : e.tells p e.state s = s := by simp [Peer.tells, queueReports]
    rw [h, setPeer_peer he, hquiet]
    cases e.state <;> rfl
  · simp [hpresent, h, Peer.tells, queueReports]
  · obtain hstate | hstate := hstate <;>
      simp [hstate, h, Peer.tells, Peer.toAbsent, Peer.cleared, queueReports, makeAbsent]

@[simp] theorem tells_roster (e : Peer) (p : StationNo) (new : PeerState) (s : State) :
    (e.tells p new s).roster = s.roster := by
  unfold Peer.tells
  split <;> simp

/-- The sweep of one entry writes at its number alone. -/
theorem peer?_sweepEntry {s : State} {p : StationNo} (q : StationNo) :
    (sweepEntry s p).peer? q = if q = p then (s.peer? p).map (Peer.swept s.beat s.now) else s.peer? q := by
  cases he : s.peer? p with
  | none =>
    have hsame : sweepEntry s p = s := by simp [sweepEntry, he]
    rw [hsame]
    split
    · next hq => rw [hq, he]; rfl
    · rfl
  | some e => rw [sweepEntry_of_peer he, peer?_congr _ _ (tells_roster e p _ _), peer?_setPeer p q _ e s he, Option.map_some]

/-- The roster when some entries have been swept. -/
theorem peer?_sweepEntries (l : List StationNo) (hl : l.Nodup) (s : State) (q : StationNo) :
    (l.foldl sweepEntry s).peer? q = if q ∈ l then (s.peer? q).map (Peer.swept s.beat s.now) else s.peer? q := by
  induction l generalizing s with
  | nil => simp
  | cons p l ih =>
    obtain ⟨hp, hl⟩ := List.nodup_cons.mp hl
    have hbeat : (sweepEntry s p).beat = s.beat := by simp [State.beat]
    have hnow : (sweepEntry s p).now = s.now := by simp [State.now]
    rw [List.foldl_cons, ih hl, hbeat, hnow, peer?_sweepEntry]
    by_cases hq : q = p
    · simp [hq, hp]
    · simp [hq]

/-- The sweep takes each entry to what it is swept to. -/
theorem peer?_sweep (s : State) (q : StationNo) : (sweep s).peer? q = (s.peer? q).map (Peer.swept s.beat s.now) := by
  rw [sweep, peer?_sweepEntries _ nodup_stations, if_pos (mem_stations q)]

/-! ### Samples and last BEATs (R10, R13, R88) -/

/-- Each sample of a PRESENT peer was taken at the peer's last matching BEAT. -/
def State.SamplesFollow (s : State) : Prop :=
  ∀ (p : StationNo) x e, s.tb.samples[p.toNat] = some x → s.peer? p = some e → e.state = .present →
    e.lastBeat = some x.localTime

theorem samplesFollowBeats_iff (s : State) : SamplesFollowBeats s ↔ s.SelfIsOwn ∧ s.SamplesFollow := Iff.rfl

/-- A PRESENT peer that is heard within 2B is not swept, and no entry is swept to PRESENT. -/
theorem swept_present_iff {e : Peer} {beat : Nat} {now : Time} {x : Time} (hlast : e.state = .present → e.lastBeat = some x)
    (hfresh : elapsed now x ≤ 2 * beat) : (e.swept beat now).state = .present ↔ e.state = .present := by
  by_cases hpresent : e.state = .present
  · have hnot : ¬ 3 * beat < (now - x).toNat := by
      unfold elapsed at hfresh
      omega
    have hstays : e.swept beat now = e := by
      simp only [Peer.swept, hlast hpresent, hpresent]
      rw [if_neg (fun h => hnot h.2), if_neg (by simp)]
    rw [hstays]
  · obtain h | ⟨hwas, -⟩ | ⟨-, h⟩ := swept_cases e beat now
    · rw [h]
    · exact absurd hwas hpresent
    · simp [h, Peer.toAbsent, Peer.cleared, hpresent]

/-- A sample that follows its BEAT is usable before the sweep when it is after it. -/
theorem usableSample_sweep {s : State} (h : s.SamplesFollow) (p : StationNo) :
    (sweep s).usableSample p = s.usableSample p := by
  have hbeat : (sweep s).beat = s.beat := by simp [State.beat]
  have hnow : (sweep s).now = s.now := by simp [State.now]
  have hsamples : (sweep s).tb.samples = s.tb.samples := by simp
  have hoffset : (sweep s).tb.offset = s.tb.offset := by simp
  unfold State.usableSample
  rw [hsamples, hnow, hbeat, hoffset]
  cases hx : s.tb.samples[p.toNat] with
  | none => rfl
  | some x =>
    by_cases hfresh : elapsed s.now x.localTime ≤ 2 * s.beat
    · have hpresent : (sweep s).isPresent p = s.isPresent p := by
        unfold State.isPresent
        rw [peer?_sweep]
        cases he : s.peer? p with
        | none => rfl
        | some e =>
          rw [Option.map_some, Bool.eq_iff_iff, beq_iff_eq, beq_iff_eq]
          exact swept_present_iff (h p x e hx he) hfresh
      simp only [hpresent]
    · simp [hfresh]

/-- The evaluation comes out the same before and after the sweep (R7). -/
theorem evaluation_sweep {s : State} (h : s.SamplesFollow) : (sweep s).evaluation = s.evaluation := by
  have hstate : (sweep s).tb.tbState = s.tb.tbState := by simp
  simp only [State.evaluation, hstate, funext (usableSample_sweep h)]

theorem State.SamplesFollow.congr {s t : State} (h : s.SamplesFollow) (hsamples : t.tb.samples = s.tb.samples)
    (hentries : t.roster.entries = s.roster.entries) : t.SamplesFollow := by
  intro p x e hx he
  rw [hsamples] at hx
  rw [State.peer?, State.entry, hentries] at he
  exact h p x e hx he

/-- A peer's entry written that does not become PRESENT with another last BEAT. -/
theorem samplesFollow_setPeer {s t : State} {p : StationNo} {e x : Peer} (he : s.peer? p = some e)
    (hx : x.state = .present → e.state = .present ∧ x.lastBeat = e.lastBeat) (hsamples : t.tb.samples = s.tb.samples)
    (hroster : t.roster = (setPeer p x s).roster) (h : s.SamplesFollow) : t.SamplesFollow := by
  intro q y d hy hd hpresent
  rw [hsamples] at hy
  rw [peer?_congr _ _ hroster, peer?_setPeer p q x e s he] at hd
  split at hd
  · next hq =>
    obtain rfl := Option.some.inj hd
    obtain ⟨hwas, hlast⟩ := hx hpresent
    exact hlast ▸ h p y e (hq ▸ hy) he hwas
  · exact h q y d hy hd hpresent

/-- In a cleared roster no peer is PRESENT. -/
theorem samplesFollow_of_cleared {s : State} (h : s.roster.entries = clearedEntries s.sig.own) : s.SamplesFollow := by
  intro p x e _ he hpresent
  have hentry : s.entry p = if p = s.sig.own then .self else .peer Peer.cleared := by
    rw [State.entry, h, clearedEntries_getElem]
  unfold State.peer? at he
  rw [hentry] at he
  by_cases hp : p = s.sig.own
  · simp only [if_pos hp, reduceCtorEq] at he
  · simp only [if_neg hp, Option.some.injEq] at he
    rw [← he] at hpresent
    cases hpresent

/-- A sample written in the slot of a station; the others are kept. -/
theorem sample_of_set {samples : Vector (Option Sample) 32} {p q : StationNo} {x y : Sample}
    (h : (samples.set p.toNat (some x))[q.toNat] = some y) : p = q ∧ y = x ∨ p ≠ q ∧ samples[q.toNat] = some y := by
  rw [Vector.getElem_set] at h
  split at h
  · next heq => exact .inl ⟨BitVec.eq_of_toNat_eq heq, (Option.some.inj h).symm⟩
  · next hne => exact .inr ⟨fun heq => hne (by rw [heq]), h⟩

theorem change_keeps_samplesFollow {s t : State} (hc : Change s t) (h : s.SamplesFollow) : t.SamplesFollow := by
  cases hc with
  | plain hp => exact h.congr hp.samples hp.entries
  | peer x he hrewrite => exact samplesFollow_setPeer he hrewrite.present (by simp) rfl h
  | absent x cause he =>
    exact samplesFollow_setPeer he (by simp [Peer.toAbsent, Peer.cleared]) (by simp) (makeAbsent_entry _ x cause s) h
  | sample x hp =>
    intro q y e hy he hpresent
    obtain ⟨rfl, -⟩ | ⟨-, hold⟩ := sample_of_set hy
    · have he : s.peer? _ = some e := he
      simp [State.isPresent, he, hpresent] at hp
    · exact h q y e hold he hpresent
  | beat x y he _ hlast =>
    intro q z e hz he' hpresent
    have hpeer : (setPeer _ x s).peer? q = some e := he'
    rw [peer?_setPeer _ q x _ s he] at hpeer
    obtain ⟨rfl, rfl⟩ | ⟨hne, hold⟩ := sample_of_set hz
    · rw [if_pos rfl] at hpeer
      exact Option.some.inj hpeer ▸ hlast
    · rw [if_neg hne.symm] at hpeer
      exact h q z e (by simpa using hold) hpeer hpresent
  | clear _ => exact samplesFollow_of_cleared rfl
  | reset own rate => exact samplesFollow_of_cleared rfl
  | restart => exact samplesFollow_of_cleared rfl
  | report | finish | posting | join | leave | place | station =>
    exact h.congr (by simp [placeHeld, joinList]) (by simp [placeHeld, joinList])

/-- Settles O30: a sample fresh enough for the evaluation keeps its sender from the sweep, and the samples follow the BEATs on
every step. -/
theorem evaluationSameInEitherOrder : Obligations.EvaluationSameInEitherOrder := by
  refine ⟨fun s h => evaluation_sweep ((samplesFollowBeats_iff s).mp h).2, fun s t h hstep => ?_⟩
  exact step_keeps_of_changes (P := SamplesFollowBeats)
    (fun _ _ hc ⟨hself, hfollow⟩ => ⟨change_keeps_selfIsOwn hc hself, change_keeps_samplesFollow hc hfollow⟩)
    (fun s kind _ ⟨hself, hfollow⟩ => ⟨State.SelfIsOwn.congr hself rfl rfl, State.SamplesFollow.congr hfollow rfl rfl⟩)
    h hstep

end Sys2Proof.Machine

namespace Sys2Proof.Machine

/-! ### The step and the reset (R190) -/

/-- Settles O1: the front command is executed on the rest of the queue. -/
theorem stepTakesTheFrontCommand : Obligations.StepTakesTheFrontCommand := by
  intro c rest s h
  rw [step_front s c rest h, exec_eq]

theorem exec_reset (stn : StationNo) (rate : BitVec 2) (s : State) :
    exec (.reset stn rate) s = .next (resetStation stn rate s) := exec_eq s (.reset stn rate)

/-- The roster after a RESET: SELF at the strapped number (R86, R101). -/
theorem resetStation_entry (own p : StationNo) (rate : BitVec 2) (s : State) :
    (resetStation own rate s).entry p = if p = own then .self else .peer Peer.cleared :=
  clearedEntries_getElem own p

theorem resetStation_peer? {own p : StationNo} (rate : BitVec 2) (s : State) (hp : p ≠ own) :
    (resetStation own rate s).peer? p = some Peer.cleared := by
  unfold State.peer?
  rw [resetStation_entry, if_neg hp]

theorem resetStation_chan (own : StationNo) (rate : BitVec 2) (s : State) (c : ChannelNo) :
    (resetStation own rate s).chan c = .off := by
  simp [resetStation, State.powerOn, State.chan]

/-- Settles O3: the values of a RESET, block by block. -/
theorem resetSetsThePowerOnValues : Obligations.ResetSetsThePowerOnValues := by
  intro stn rate s
  refine ⟨_, exec_reset stn rate s, ?_⟩
  have hchans : ∀ c, (resetStation stn rate s).chan c = .off ∧ (resetStation stn rate s).pinDrive c = .highImpedance :=
    fun c => ⟨resetStation_chan stn rate s c, by simp [State.pinDrive, resetStation_chan]⟩
  have hsamples : ∀ p : Fin 32, (resetStation stn rate s).tb.samples[p] = none := fun p => by
    simp [resetStation, State.powerOn, Timebase.reset]
  have hself : (resetStation stn rate s).entry stn = .self := by rw [resetStation_entry, if_pos rfl]
  have hpeers : ∀ p, p ≠ stn → (resetStation stn rate s).peer? p = some Peer.cleared := fun p hp =>
    resetStation_peer? rate s hp
  exact ⟨rfl, rfl, rfl, rfl, rfl, rfl, rfl, rfl, rfl, rfl, rfl, rfl, hsamples, rfl, hchans, rfl, hself, hpeers, rfl, rfl, rfl,
    rfl, rfl, rfl, rfl, rfl, rfl, rfl, rfl, rfl, rfl, fun _ => rfl, rfl, rfl, rfl, rfl⟩

/-- A station just reset obeys the laws: its tables and lists are empty. -/
theorem resetStation_lawful (own : StationNo) (rate : BitVec 2) (s : State) : (resetStation own rate s).lawful := by
  have hself : (resetStation own rate s).SelfIsOwn := selfIsOwn_of_cleared rfl
  have hnone : ∀ p : Posting, p ∉ (resetStation own rate s).post.list := fun p => by simp [resetStation, State.powerOn]
  refine ⟨?law1, ?law2, ?law3, ?law4, ?law6, fun p hp => absurd hp (hnone p), ?law9, ?law10,
    ⟨hself, fun p hp => absurd hp (hnone p)⟩, ?law12⟩
  case law1 => simp [Law1, resetStation, State.powerOn]
  case law2 => simp [Law2, resetStation, State.powerOn]
  case law3 => simp [Law3, resetStation, State.powerOn, LocalPort.reset]
  case law4 => simp [Law4, resetStation, State.powerOn]
  case law6 => simp [Law6, resetStation, State.powerOn, Timebase.reset]
  case law9 =>
    intro c o h
    simp [resetStation_chan] at h
  case law10 => simp [Law10, resetStation, State.powerOn, LineAccess.reset]
  case law12 => simp [Law12, resetStation, State.powerOn, FrameUnit.reset]

/-- Settles O4: the machine at the start is one just reset. -/
theorem lawsHoldAtReset : Obligations.LawsHoldAtReset := by
  have hstart : State.reset = resetStation 0 0 (State.powerOn 0 0) := rfl
  refine ⟨hstart ▸ resetStation_lawful _ _ _, fun stn rate s t h => ?_⟩
  rw [exec_reset] at h
  exact Host.Outcome.next.inj h ▸ resetStation_lawful stn rate s

/-! ### Exchanges (R207, R208) -/

/-- Settles O5: outside an exchange the fall of LCS lets the held reply out, and within one it does nothing. -/
theorem exchangeBeginSendsTheHeldReply : Obligations.ExchangeBeginSendsTheHeldReply := by
  intro s
  refine ⟨fun hout => ⟨fun n => ?_, beginExchange s, exec_eq s .exchangeBegin, ?_⟩, fun hin => ?_⟩
  · simp [State.misoBit, State.misoChar, hout]
  · have hbegun : beginExchange s = { s with port := { s.port with
        request := []
        exchange := some ([s.port.holder.status.code, byte s.control.station.code, byte s.port.queue.length,
          byte s.port.holder.body.length] ++ s.port.holder.body) } } := by
      unfold beginExchange
      rw [hout]
      rfl
    have hexchange : (beginExchange s).port.exchange = some ([s.port.holder.status.code, byte s.control.station.code,
        byte s.port.queue.length, byte s.port.holder.body.length] ++ s.port.holder.body) := by rw [hbegun]
    refine ⟨hbegun, ?_, ?_, ?_, ?_, fun n => ?_, fun n c j hc hj => ?_⟩
    · simp [State.misoChar, hexchange]
    · simp [State.misoChar, hexchange]
    · simp [State.misoChar, hexchange]
    · simp [State.misoChar, hexchange]
    · simp [State.misoChar, hexchange]
    · have hdiv : (8 * n + j) / 8 = n := by omega
      have hmod : (8 * n + j) % 8 = j := by omega
      rw [State.misoBit, hdiv, hmod, hc, Option.map_some]
      have hplace : (clockedBits c).getD j false = c.getLsbD (7 - j) := by
        interval_cases j <;> rfl
      rw [hplace]
  · have hsame : beginExchange s = s := by
      unfold beginExchange
      cases he : s.port.exchange with
      | none => exact absurd he hin
      | some _ => rfl
    rw [exec_eq]
    exact congrArg Host.Outcome.next hsame

theorem length_clocked (chars : List Byte) : (chars.flatMap clockedBits).length = 8 * chars.length := by
  induction chars with
  | nil => rfl
  | cons c chars ih =>
    simp only [List.flatMap_cons, List.length_append, ih, List.length_cons, clockedBits, List.length_map, List.length_nil]
    omega

/-- What is clocked in is settled by its whole characters and the bits of a partial one (R207). -/
theorem exchangeOf_clocked (chars : List Byte) (rest : List Bool) (h : rest.length < 8) :
    exchangeOf (chars.flatMap clockedBits ++ rest) = settledAs chars rest.length := by
  have hbits : (chars.flatMap clockedBits ++ rest).length % 8 = rest.length := by
    rw [List.length_append, length_clocked]
    omega
  rw [exchangeOf, charsOfBits_clocked chars rest h, hbits]

/-- Characters with a partial one behind them make no request (R208). -/
theorem settledAs_partial (chars : List Byte) {n : Nat} (h : n ≠ 0) : settledAs chars n = .short chars n := by
  unfold settledAs
  split <;> simp [h]

/-- The characters that are kept when none stands beyond the stated length. -/
theorem keptChars_eq {chars : List Byte} (h : ∀ code len body, chars = code :: len :: body → body.length ≤ len.toNat) :
    keptChars chars = chars := by
  unfold keptChars
  split
  · next code len rest => rw [List.take_of_length_le (h code len rest rfl)]
  · rfl

/-- Settles O6: the characters clocked in name the command, and the exchanges that are no request leave only a reply. -/
theorem exchangesAreSettledByWhatWasClocked : Obligations.ExchangesAreSettledByWhatWasClocked := by
  refine ⟨fun chars rest hrest => ?_, fun body => rfl, fun code body hcode => ?_, fun s => ⟨?_, ?_, ?_, ?_⟩⟩
  · have hsettled := exchangeOf_clocked chars rest hrest
    refine ⟨fun hnone hwhole => ?_, fun hpartial => ?_, fun hwhole hone => ?_, fun code len body hwhole hchars hshort => ?_,
      fun code len body more hwhole hchars hlength => ?_⟩ <;> refine hsettled.trans ?_
    · rw [hnone, hwhole]
      rfl
    · exact settledAs_partial chars (by simpa using hpartial)
    · obtain ⟨c, rfl⟩ := List.length_eq_one_iff.mp hone
      rw [hwhole]
      rfl
    · simp [settledAs, hwhole, hchars, Nat.not_le.mpr hshort]
    · simp [settledAs, hwhole, hchars, ← hlength]
  · unfold requestOf
    split <;> first | omega | rfl
  · rw [exec_eq]; rfl
  · rw [exec_eq]; rfl
  · intro chars bits h
    rw [exec_eq]
    simp only [after, gather, keptChars_eq h]
    rfl
  · intro code len body more bits h
    rw [exec_eq]
    have hkept : keptChars (code :: len :: (body ++ more)) = code :: len :: body := by simp [keptChars, ← h]
    simp only [after, gather, hkept]
    rfl

end Sys2Proof.Machine

namespace Sys2Proof.Machine

/-! ### Reports and the request buffer (R207, R211) -/

/-- What was gathered does not enter the admission of a report. -/
theorem queueReport_gatherRequest (b : ReportBody) (code : Byte) (body : List Byte) (s : State) :
    queueReport b (gatherRequest code body s) = gatherRequest code body (queueReport b s) := by
  have hsum : (gatherRequest code body s).reportSum = s.reportSum := rfl
  unfold queueReport
  rw [hsum]
  split <;> rfl

/-- A report touches the port alone. -/
theorem queueReport_onPort (b : ReportBody) (s : State) : queueReport b s = { s with port := (queueReport b s).port } := by
  unfold queueReport
  split <;> rfl

theorem queueReports_gatherRequest (bs : List ReportBody) (code : Byte) (body : List Byte) (s : State) :
    queueReports bs (gatherRequest code body s) = gatherRequest code body (queueReports bs s) := by
  induction bs generalizing s with
  | nil => rfl
  | cons b bs ih => exact (congrArg (queueReports bs) (queueReport_gatherRequest b code body s)).trans (ih (queueReport b s))

/-- A change of station state and what is gathered do not meet. -/
theorem setStation_gatherRequest (new : StationState) (cause : Cause) (code : Byte) (body : List Byte) (s : State) :
    setStation new cause (gatherRequest code body s) = gatherRequest code body (setStation new cause s) :=
  queueReport_gatherRequest (.stationState s.control.station new cause) code body
    (s.onControl fun c => { c with station := new, cause := some cause })

/-- A report is put at the tail below 48 (R211). -/
theorem queueReport_bodies (b : ReportBody) {s : State} (h : s.reportSum < 48) :
    (queueReport b s).port.queue.map Report.body = s.port.queue.map Report.body ++ [b] := by
  rw [queueReport, if_pos (by simpa [reportCapacity] using h), enqueue_queue, List.map_append]
  rfl

/-- A report is lost at 48 (R211). -/
theorem queueReport_full (b : ReportBody) {s : State} (h : 48 ≤ s.reportSum) :
    (queueReport b s).port.queue = s.port.queue := by
  rw [queueReport, if_neg (by simpa [reportCapacity] using h)]
  rfl

theorem queueReport_length (b : ReportBody) {s : State} (h : s.reportSum < 48) :
    (queueReport b s).reportSum = s.reportSum + 1 := by
  have := congrArg List.length (queueReport_bodies b h)
  simp only [List.length_map, List.length_append, List.length_singleton] at this
  simp only [State.reportSum, this, queueReport_frame]
  omega

theorem queueReports_bodies (bs : List ReportBody) {s : State} (h : s.reportSum + bs.length ≤ 48) :
    (queueReports bs s).port.queue.map Report.body = s.port.queue.map Report.body ++ bs := by
  induction bs generalizing s with
  | nil => simp [queueReports]
  | cons b bs ih =>
    rw [List.length_cons] at h
    have hroom : s.reportSum < 48 := by omega
    have hrest : (queueReport b s).reportSum + bs.length ≤ 48 := by
      rw [queueReport_length b hroom]
      omega
    refine (ih hrest).trans ?_
    rw [queueReport_bodies b hroom, List.append_assoc]
    rfl

theorem queueReports_length (bs : List ReportBody) {s : State} (h : s.reportSum + bs.length ≤ 48) :
    (queueReports bs s).reportSum = s.reportSum + bs.length := by
  have := congrArg List.length (queueReports_bodies bs h)
  simp only [List.length_map, List.length_append] at this
  simp only [State.reportSum, this, queueReports_frame]
  omega

theorem setStation_bodies (new : StationState) (cause : Cause) {s : State} (h : s.reportSum < 48) :
    (setStation new cause s).port.queue.map Report.body
      = s.port.queue.map Report.body ++ [.stationState s.control.station new cause] :=
  queueReport_bodies _ (s := s.onControl fun c => { c with station := new, cause := some cause }) h

@[simp] theorem queueReport_replies (b : ReportBody) (s : State) :
    (queueReport b s).port.holder = s.port.holder ∧ (queueReport b s).port.exchange = s.port.exchange
      ∧ (queueReport b s).port.request = s.port.request := by
  unfold queueReport
  split <;> exact ⟨rfl, rfl, rfl⟩

/-! ### OPEN and UNMUTE (R195, R199) -/

/-- Settles O9: an OPEN is refused outside PREP and with no record, and leads to LISTEN otherwise. -/
theorem openByState : Obligations.OpenByState := by
  intro s
  refine ⟨fun hprep => ?_, fun hprep hconfig => ?_, fun hprep hconfig => ?_⟩ <;>
    refine (exec_eq s (.openLine [])).trans (congrArg Host.Outcome.next ?_)
  · exact if_pos hprep
  · exact (if_neg (not_not.mpr hprep)).trans (if_pos hconfig)
  · have hopened : openStation s = queueReport (.stationState .prep .listen .openLine) { s with
        tb := { s.tb with periodStart := some s.tb.localTime }
        control := { s.control with station := .listen, listenStart := some s.tb.localTime, cause := some .openLine }
        access := { s.access with endSeen := false } } := by
      rw [← hprep]
      rfl
    have htaken : takeOpen (gatherRequest 2 [] s) = answer .okReply (openStation (gatherRequest 2 [] s)) :=
      (if_neg (not_not.mpr hprep)).trans (if_neg hconfig)
    refine htaken.trans ?_
    rw [← hopened]
    exact congrArg (answer .okReply) (setStation_gatherRequest .listen .openLine 2 [] { s with
      tb := { s.tb with periodStart := some s.tb.localTime }
      control := { s.control with listenStart := some s.tb.localTime }
      access := { s.access with endSeen := false } })

/-- Settles O10: a CLOSE and an UNMUTE that the station state gives no effect, and the UNMUTE that leads to LISTEN. -/
theorem unmuteByStateAndCloseWithoutEffect : Obligations.UnmuteByStateAndCloseWithoutEffect := by
  intro s
  refine ⟨fun hstation => ?_, fun hstation => ?_, fun hstation => ?_⟩
  · have hsame : closeStation (gatherRequest 3 [] s) = gatherRequest 3 [] s := by
      unfold closeStation
      obtain h | h := hstation <;> simp [gatherRequest, h]
    exact (exec_eq s (.close [])).trans (congrArg (fun u => Host.Outcome.next (answer .okReply u)) hsame)
  · have hsame : unmuteStation (gatherRequest 4 [] s) = gatherRequest 4 [] s := by
      unfold unmuteStation
      cases h : s.control.station with
      | muted => exact absurd h hstation
      | prep | listen | active | closing => simp [gatherRequest, h]
    exact (exec_eq s (.unmute [])).trans (congrArg (fun u => Host.Outcome.next (answer .okReply u)) hsame)
  · have hunmuted : unmuteStation (gatherRequest 4 [] s) = gatherRequest 4 [] (queueReport (.stationState .muted .listen .unmute)
        { s with
          control := { s.control with station := .listen, listenStart := some s.tb.localTime, cause := some .unmute }
          access := { s.access with endSeen := false } }) := by
      rw [← queueReport_gatherRequest, ← hstation]
      unfold unmuteStation
      simp only [gatherRequest_frame, hstation]
      rw [← hstation]
      rfl
    exact (exec_eq s (.unmute [])).trans (congrArg (fun u => Host.Outcome.next (answer .okReply u)) hunmuted)

/-! ### CLOSE in LISTEN and MUTED (R202) -/

theorem clearForPrep_chan (s : State) (c : ChannelNo) :
    (clearForPrep s).chan c = Channel.reachPrep (modeOf s.control.config c.toFin) (s.chan c) :=
  chan_ofFn (v := fun i => Channel.reachPrep (modeOf s.control.config i) s.chans[i]) (clearForPrep s) rfl c

/-- An OUTPUT channel on reaching PREP stands at the rest level its record gives it (R67). -/
theorem clearForPrep_output {s : State} {c : ConfigRecord} {i : ChannelNo} {rest : Bool} {o : OutputState}
    (hconfig : s.control.config = some c) (hmode : c.modes[i.toNat] = .output rest) (ho : s.chan i = .output o) :
    (clearForPrep s).chan i = .output (OutputState.atRest rest) := by
  have hmodeOf : modeOf s.control.config i.toFin = .output rest := by
    simp only [modeOf, hconfig]
    exact hmode
  rw [clearForPrep_chan, ho, hmodeOf]
  rfl

/-- The blocks of a station that has reached PREP: the reports of it touch the queue alone. -/
theorem reachPrep_blocks (cause : Cause) (s : State) :
    (reachPrep cause s).tb = s.tb.reachPrep ∧ (reachPrep cause s).cues = { held := [], recent := [], installCount := 0 }
    ∧ (reachPrep cause s).chans = (clearForPrep s).chans
    ∧ (reachPrep cause s).marks = { s.marks with outgoing := [], sharedLoss := 0 }
    ∧ (reachPrep cause s).roster = { s.roster with entries := clearedEntries s.sig.own }
    ∧ (reachPrep cause s).post = s.post
    ∧ (reachPrep cause s).frames = { s.frames with assembly := s.frames.assembly.map fun a => { a with stamp := none } }
    ∧ (reachPrep cause s).access = { s.access.clearPending with receipts := [] }
    ∧ (reachPrep cause s).control = { s.control with station := .prep, listenStart := none, cause := some cause }
    ∧ (reachPrep cause s).sig = s.sig ∧ (reachPrep cause s).pending = s.pending ∧ (reachPrep cause s).world = s.world := by
  simp [reachPrep, setStation, clearForPrep]

theorem reachPrep_clearedFrom {s : State} {c : ConfigRecord} (cause : Cause) (hconfig : s.control.config = some c) {t : State}
    (hcontrol : t.control = (reachPrep cause s).control) (htb : t.tb = (reachPrep cause s).tb)
    (hcues : t.cues = (reachPrep cause s).cues) (hchans : t.chans = (reachPrep cause s).chans)
    (hmarks : t.marks = (reachPrep cause s).marks) (hroster : t.roster = (reachPrep cause s).roster)
    (hpost : t.post = (reachPrep cause s).post) (haccess : t.access = (reachPrep cause s).access) :
    s.clearedFrom c cause t := by
  obtain ⟨ktb, kcues, kchans, kmarks, kroster, kpost, -, kaccess, kcontrol, -⟩ := reachPrep_blocks cause s
  have hchan : ∀ i, t.chan i = (clearForPrep s).chan i := fun i => by simp only [State.chan, hchans, kchans]
  have hentry : ∀ p, t.entry p = if p = s.sig.own then .self else .peer Peer.cleared := fun p => by
    rw [State.entry, hroster, kroster]
    exact clearedEntries_getElem s.sig.own p
  rw [kcontrol] at hcontrol
  rw [ktb] at htb
  rw [kaccess] at haccess
  refine ⟨by simp only [hcontrol, hconfig], ?_, ?_, ?_, ?_, ?_, ?_, ?_, fun p => ?_, ?_, ?_, ?_, ?_, hcues.trans kcues,
    fun i rest hmode o ho => ?_, fun i x hx => ?_, hmarks.trans kmarks, ?_, fun p hp => ?_, ?_, hpost.trans kpost, ?_⟩
  · rw [htb]; rfl
  · rw [htb]; rfl
  · rw [htb]; rfl
  · rw [htb]; rfl
  · rw [htb]; rfl
  · rw [htb]; rfl
  · rw [htb]; rfl
  · simp [htb, Timebase.reachPrep, Timebase.reset]
  · rw [htb]; rfl
  · rw [htb]; rfl
  · rw [htb]; rfl
  · rw [htb]; rfl
  · rw [hchan]
    exact clearForPrep_output hconfig hmode ho
  · rw [hchan, clearForPrep_chan, hx]
    rfl
  · rw [hentry, if_pos rfl]
  · rw [State.peer?, hentry, if_neg hp]
    rfl
  · rw [hroster, kroster]
  · simp [haccess, LineAccess.clearPending]

/-- The reports of reaching PREP, where there is room. -/
theorem reachPrep_bodies (cause : Cause) {s : State} (hroom : s.reportSum + 2 ≤ 48) :
    (reachPrep cause s).port.queue.map Report.body = s.port.queue.map Report.body ++ s.prepReports cause := by
  have hclear : (clearForPrep s).reportSum = s.reportSum := rfl
  have hone : (soloReports s.tb.tbState).length ≤ 1 := by
    unfold soloReports
    split <;> simp
  have hlength := queueReports_length (soloReports s.tb.tbState) (s := clearForPrep s) (by omega)
  rw [reachPrep, setStation_bodies _ _ (by omega), queueReports_bodies _ (by omega), List.append_assoc]
  simp [clearForPrep, State.prepReports, soloReports]

/-- Settles O11: a CLOSE in LISTEN or MUTED clears the blocks at once. -/
theorem closeReachesPrep : Obligations.CloseReachesPrep := by
  intro s c hstation hconfig
  have hclosed : closeStation (gatherRequest 3 [] s) = gatherRequest 3 [] (reachPrep .close s) := by
    have hreach : closeStation (gatherRequest 3 [] s) = reachPrep .close (gatherRequest 3 [] s) := by
      unfold closeStation
      obtain h | h := hstation <;> simp [gatherRequest, h]
    rw [hreach, reachPrep, reachPrep, ← setStation_gatherRequest, ← queueReports_gatherRequest]
    rfl
  have hbodies := fun hroom => reachPrep_bodies .close (s := s) hroom
  have hcleared := fun t => reachPrep_clearedFrom (t := t) .close hconfig
  obtain ⟨-, -, -, -, -, -, kframes, kaccess, -, ksig, kpending, kworld⟩ := reachPrep_blocks .close s
  refine ⟨_, (exec_eq s (.close [])).trans (congrArg (fun u => Host.Outcome.next (answer .okReply u)) hclosed), ?_⟩
  generalize reachPrep .close s = u at *
  exact ⟨hcleared _ rfl rfl rfl rfl rfl rfl rfl rfl, kaccess, kframes, ksig, kpending, kworld, rfl, rfl, rfl, hbodies⟩

/-! ### CLOSE in ACTIVE (R201) -/

/-- Every posting finishes ABANDONED in list order, and a frame in flight loses its posting (R120, R168). -/
theorem abandonPostings_eq (s : State) :
    abandonPostings s = enqueueAll (s.post.list.map fun p => .postingDone (p.doneReport .abandoned)) { s with
      post := { s.post with list := [] }
      access := { s.access with flight := s.access.flight.map (Flight.loseAll (s.post.list.map Posting.id)) } } := by
  unfold abandonPostings
  generalize hlist : s.post.list = l
  induction l generalizing s with
  | nil =>
    have hflight : s.access.flight.map (Flight.loseAll []) = s.access.flight := by cases s.access.flight <;> simp
    have hsame : ({ s.post with list := [] } : PostingUnit) = s.post := by rw [← hlist]
    simp only [List.map_nil, List.foldl_nil, hflight, hsame]
    rfl
  | cons p rest ih =>
    rw [List.map_cons, List.foldl_cons, finishPosting_head p rest s .abandoned hlist, ih _ rfl]
    simp only [List.map_cons, map_loseAll_cons]
    rfl

theorem enqueueAll_bodies (bs : List ReportBody) (s : State) :
    (enqueueAll bs s).port.queue.map Report.body = s.port.queue.map Report.body ++ bs := by
  induction bs generalizing s with
  | nil => simp [enqueueAll]
  | cons b bs ih => simp [enqueueAll_cons, ih]

/-- What a CLOSE in ACTIVE does to line access (R168, R201). -/
def LineAccess.closing (ids : List Byte) (a : LineAccess) : LineAccess :=
  { a with
    leavingPending := true
    leavingCount := 0
    due := .none
    dueCount := 0
    receiptsPending := false
    receiptsCount := 0
    flight := (a.flight.map (Flight.loseAll ids)).map Flight.withdrawSource }

/-- The station when its postings are abandoned by a CLOSE, before their reports. -/
def State.abandonedByClose (s : State) : State :=
  { s with
    post := { s.post with list := [] }
    control := { s.control with station := .closing, cause := some .close }
    access := s.access.closing (s.post.list.map Posting.id) }

/-- The reports of the postings that are abandoned, in list order (R120, R122). -/
def State.abandonReports (s : State) : List ReportBody :=
  s.post.list.map fun p => .postingDone (p.doneReport .abandoned)

/-- The reports of finished postings do not meet a change of line access and of station control that keeps the record. -/
theorem enqueueAll_onControl (bs : List ReportBody) (s : State) (g : LineAccess → LineAccess)
    (f : StationControl → StationControl) (hf : ∀ k, (f k).config = k.config) :
    ((enqueueAll bs s).onAccess g).onControl f = enqueueAll bs ((s.onAccess g).onControl f) := by
  induction bs generalizing s with
  | nil => rfl
  | cons b bs ih =>
    have hfirst : ((enqueue b s).onAccess g).onControl f = enqueue b ((s.onAccess g).onControl f) := by
      simp [enqueue, State.onPort, State.onControl, State.onAccess, State.now, hf]
    rw [enqueueAll_cons, ih, hfirst]
    rfl

/-- A CLOSE in ACTIVE in terms of the state it finds. -/
theorem beginClosing_eq {s : State} (hactive : s.control.station = .active) :
    beginClosing s = queueReport (.stationState .active .closing .close) (enqueueAll s.abandonReports s.abandonedByClose) := by
  have habandoned := abandonPostings_eq s
  have hstation : (abandonPostings s).control.station = .active := by simpa using hactive
  have hmerge : ((abandonPostings s).onAccess fun a => { a with
        leavingPending := true, leavingCount := 0, due := .none, dueCount := 0, receiptsPending := false
        receiptsCount := 0, flight := a.flight.map Flight.withdrawSource }).onControl
          (fun c => { c with station := .closing, cause := some .close })
      = enqueueAll s.abandonReports s.abandonedByClose := by
    rw [habandoned, enqueueAll_onControl _ _ _ (fun c => { c with station := .closing, cause := some .close }) fun _ => rfl]
    rfl
  rw [← hmerge, ← hstation]
  rfl

/-- A frame in flight at a CLOSE in ACTIVE (R168, log 25). -/
theorem withdrawSource_loseAll (ids : List Byte) (f : Flight) : (f.loseAll ids).withdrawSource = match f.kind with
    | .dueBeat | .receiptsBeat => { f with lost := true }
    | .posting id _ => if id ∈ ids then { f with lost := true } else f
    | .leavingBeat | .mark _ _ => f := by
  unfold Flight.loseAll Flight.withdrawSource
  cases hkind : f.kind with
  | posting id w => by_cases h : id ∈ ids <;> simp [h, hkind]
  | leavingBeat | dueBeat | mark | receiptsBeat => simp [hkind]

/-- The queue after a CLOSE in ACTIVE: the abandoned postings take their reserved places, STATION_STATE needs room. -/
theorem beginClosing_bodies {s : State} (hactive : s.control.station = .active) :
    (beginClosing s).port.queue.map Report.body = s.port.queue.map Report.body ++ s.abandonReports
      ++ (if s.port.queue.length + s.post.list.length < 48 then [.stationState .active .closing .close] else []) := by
  have hbodies := enqueueAll_bodies s.abandonReports s.abandonedByClose
  have hsum : (enqueueAll s.abandonReports s.abandonedByClose).reportSum = s.port.queue.length + s.post.list.length := by
    have hlength := congrArg List.length hbodies
    rw [enqueueAll_frame]
    simpa [State.reportSum, State.abandonedByClose, State.abandonReports] using hlength
  rw [beginClosing_eq hactive]
  split
  · next hroom => rw [queueReport_bodies _ (by omega), hbodies]; rfl
  · next hfull => rw [queueReport_full _ (by omega), hbodies]; simp [State.abandonedByClose]

/-- Settles O12: a CLOSE in ACTIVE abandons the postings and makes the leaving BEAT pending. -/
theorem closeFromActive : Obligations.CloseFromActive := by
  intro s hactive _
  have hclosed : closeStation (gatherRequest 3 [] s) = gatherRequest 3 [] (beginClosing s) := by
    have hbegin : closeStation (gatherRequest 3 [] s) = beginClosing (gatherRequest 3 [] s) := by
      unfold closeStation
      simp [gatherRequest, hactive]
    have hinner : ∀ bs u, enqueueAll bs (gatherRequest 3 [] u) = gatherRequest 3 [] (enqueueAll bs u) := fun bs => by
      induction bs with
      | nil => exact fun _ => rfl
      | cons b bs ih => exact fun u => ih (enqueue b u)
    rw [hbegin, beginClosing_eq hactive, ← queueReport_gatherRequest, ← hinner]
    exact beginClosing_eq (s := gatherRequest 3 [] s) hactive
  have hbodies := beginClosing_bodies hactive
  have hblocks : ∃ port, beginClosing s = { s.abandonedByClose with port := port } := by
    refine ⟨(beginClosing s).port, ?_⟩
    rw [beginClosing_eq hactive, queueReport_onPort, enqueueAll_frame]
  obtain ⟨port, hport⟩ := hblocks
  rw [hport] at hbodies hclosed
  refine ⟨_, (exec_eq s (.close [])).trans (congrArg (fun u => Host.Outcome.next (answer .okReply u)) hclosed), rfl, rfl, rfl, rfl,
    rfl, rfl, rfl, rfl, rfl, rfl, rfl, rfl, fun hnone => ?_, fun f hf => ?_, rfl, rfl, rfl, fun _ => hbodies, rfl, rfl, rfl, rfl,
    rfl, rfl, rfl, rfl, rfl⟩
  · change (s.access.flight.map _).map _ = none
    rw [hnone]
    rfl
  · change (s.access.flight.map _).map _ = _
    rw [hf]
    exact congrArg some (withdrawSource_loseAll (s.post.list.map Posting.id) f)

/-! ### RESTART (R191) -/

theorem restartStation_chan (s : State) (c : ChannelNo) :
    (restartStation s).chan c = Channel.setUp (modeOf s.control.config c.toFin) :=
  chan_ofFn (v := fun i => Channel.setUp (modeOf s.control.config i)) (restartStation s) rfl c

/-- Settles O13: a RESTART sets what a RESET of the same straps sets, but for what R191 keeps. -/
theorem restartSetsTheRestartValues : Obligations.RestartSetsTheRestartValues := by
  intro s
  have hchan : ∀ c, (restartStation s).chan c = match s.control.config with
        | none => .off
        | some record => match record.modes[c.toNat] with
          | .off => .off
          | .output rest => .output (OutputState.atRest rest)
          | .input _ => .input InputState.fresh := by
    intro c
    rw [restartStation_chan]
    cases s.control.config with
    | none => rfl
    | some record => rfl
  refine ⟨_, _, exec_eq s (.restart []), exec_reset s.sig.own s.sig.rate s, rfl, rfl, rfl, rfl, rfl, rfl, rfl, rfl, rfl, rfl, rfl,
    rfl, rfl, rfl, rfl, rfl, rfl, rfl, rfl, rfl, rfl, rfl, rfl, rfl, rfl, rfl, rfl, rfl, rfl, fun _ => rfl, hchan, rfl, rfl, rfl⟩

end Sys2Proof.Machine

namespace Sys2Proof.Machine

/-! ### Fields of characters (R129, R207) -/

theorem natOf_foldl (bs : List Byte) (acc : Nat) :
    bs.foldl (fun v b => v * 256 + b.toNat) acc = acc * 256 ^ bs.length + natOf bs := by
  induction bs generalizing acc with
  | nil => simp [natOf]
  | cons b bs ih =>
    simp only [natOf, List.foldl_cons, List.length_cons, pow_succ] at ih ⊢
    rw [ih, ih (0 * 256 + b.toNat)]
    ring

theorem natOf_cons (b : Byte) (bs : List Byte) : natOf (b :: bs) = b.toNat * 256 ^ bs.length + natOf bs := by
  rw [natOf, List.foldl_cons, natOf_foldl]
  simp

theorem natOf_lt (bs : List Byte) : natOf bs < 256 ^ bs.length := by
  induction bs with
  | nil => simp [natOf]
  | cons b bs ih =>
    have hb : b.toNat < 256 := b.isLt
    rw [natOf_cons, List.length_cons, pow_succ]
    nlinarith [Nat.mul_le_mul_right (256 ^ bs.length) (Nat.le_of_lt_succ hb)]

theorem natOf_bytesOf (n v : Nat) : natOf (bytesOf n v) = v % 256 ^ n := by
  induction n with
  | zero => simp [natOf, bytesOf, Nat.mod_one]
  | succ n ih =>
    rw [bytesOf, natOf_cons, ih, length_bytesOf, pow_succ, Nat.mod_mul]
    simp [byte]
    ring

theorem bytesOf_add_mul (n v k : Nat) : bytesOf n (v + k * 256 ^ n) = bytesOf n v := by
  induction n generalizing k with
  | zero => rfl
  | succ n ih =>
    have hpow : k * 256 ^ (n + 1) = (k * 256) * 256 ^ n := by ring
    rw [bytesOf, bytesOf, hpow, ih, Nat.add_mul_div_right _ _ (by positivity)]
    congr 1
    apply BitVec.eq_of_toNat_eq
    simp [byte]

/-- The characters of a field are those of the number it carries. -/
theorem bytesOf_natOf (bs : List Byte) : bytesOf bs.length (natOf bs) = bs := by
  induction bs with
  | nil => rfl
  | cons b bs ih =>
    have hlt := natOf_lt bs
    rw [List.length_cons, bytesOf, natOf_cons, Nat.add_comm, bytesOf_add_mul, ih, Nat.add_mul_div_right _ _ (by positivity),
      Nat.div_eq_of_lt hlt]
    simp [byte]

/-- A field of n characters and what follows it. -/
theorem takeField_iff (n : Nat) (bytes rest : List Byte) (v : Nat) :
    takeField n bytes = some (v, rest) ↔ v < 256 ^ n ∧ bytes = bytesOf n v ++ rest := by
  unfold takeField
  constructor
  · intro h
    split at h
    · cases h
    · next hlength =>
      obtain ⟨rfl, rfl⟩ := Prod.mk.inj (Option.some.inj h)
      have htake : (bytes.take n).length = n := by
        rw [List.length_take]
        omega
      have hlt := natOf_lt (bytes.take n)
      have hback := bytesOf_natOf (bytes.take n)
      rw [htake] at hlt hback
      exact ⟨hlt, by rw [hback, List.take_append_drop]⟩
  · rintro ⟨hlt, rfl⟩
    have htake : (bytesOf n v ++ rest).take n = bytesOf n v := List.take_left' (length_bytesOf n v)
    have hdrop : (bytesOf n v ++ rest).drop n = rest := List.drop_left' (length_bytesOf n v)
    rw [if_neg (by simp), htake, hdrop, natOf_bytesOf, Nat.mod_eq_of_lt hlt]

/-- A field that may be absent and what follows it. -/
theorem takeOpt_iff (present : Bool) (n : Nat) (bytes rest : List Byte) (v : Option Nat) :
    takeOpt present n bytes = some (v, rest) ↔
      v.isSome = present ∧ (∀ x, v = some x → x < 256 ^ n) ∧ bytes = v.elim [] (bytesOf n) ++ rest := by
  cases present with
  | false => cases v <;> simp [takeOpt, eq_comm]
  | true =>
    have hfield : takeOpt true n bytes = some (v, rest) ↔ ∃ x, takeField n bytes = some (x, rest) ∧ some x = v := by
      simp [takeOpt]
    rw [hfield]
    cases v with
    | none => simp
    | some x => simp [takeField_iff]

/-! ### Cue records from their descriptor on (R132) -/

theorem actionOf_eq_some_iff (n : Nat) (a : ActionKind) : actionOf n = some a ↔ n = a.code := by
  unfold actionOf
  split <;> cases a <;> simp [ActionKind.code] <;> omega

/-- The descriptor's fields (R132). -/
theorem descriptor_fields (channel : ChannelNo) (a : ActionKind) (report timed : Bool) :
    let d := byte (channel.toNat + 8 * a.code + 64 * report.toNat + 128 * timed.toNat)
    d.setWidth 3 = channel ∧ d.toNat / 8 % 8 = a.code ∧ d.getLsbD 6 = report ∧ d.getLsbD 7 = timed := by
  revert channel
  cases a <;> cases report <;> cases timed <;> decide

/-- A descriptor is made of its fields (R132). -/
theorem descriptor_eq (d : Byte) : byte ((d.setWidth 3).toNat + 8 * (d.toNat / 8 % 8) + 64 * (d.getLsbD 6).toNat
    + 128 * (d.getLsbD 7).toNat) = d := by
  revert d
  decide +kernel

theorem chars_eq (r : CueSpec) : r.chars
    = byte (r.channel.toNat + 8 * r.action.code + 64 * r.report.toNat + 128 * r.fire.isSome.toNat)
      :: (r.fire.elim [] fun t => bytesOf 6 t.toNat) ++ (r.width.elim [] fun w => bytesOf 3 w.toNat)
        ++ (r.period.elim [] fun p => bytesOf 3 p.toNat) ++ r.count.elim [] fun n => [n] := by
  unfold CueSpec.chars
  cases r.action <;> rfl

theorem whole_iff (r : CueSpec) : r.whole ↔ r.width.isSome = r.action.usesWidth ∧ r.period.isSome = r.action.usesPeriod
    ∧ r.count.isSome = r.action.usesPeriod := by
  unfold CueSpec.whole
  cases r.action <;> cases r.width <;> cases r.period <;> cases r.count <;>
    simp [ActionKind.usesWidth, ActionKind.usesPeriod]

/-- The record that its fields give. -/
def specFrom (d : Byte) (action : ActionKind) (fire width period count : Option Nat) : CueSpec where
  channel := d.setWidth 3
  action := action
  report := d.getLsbD 6
  fire := fire.map (BitVec.ofNat 48)
  width := width.map (BitVec.ofNat 24)
  period := period.map (BitVec.ofNat 24)
  count := count.map (BitVec.ofNat 8)

/-- The walk over one record, field by field. -/
theorem cueSpecOf_cons_iff (d : Byte) (bytes rest : List Byte) (r : CueSpec) : cueSpecOf (d :: bytes) = some (r, rest) ↔
    ∃ action fire width period count, d.toNat / 8 % 8 = action.code ∧ fire.isSome = d.getLsbD 7
      ∧ width.isSome = action.usesWidth ∧ period.isSome = action.usesPeriod ∧ count.isSome = action.usesPeriod
      ∧ (∀ x, fire = some x → x < 256 ^ 6) ∧ (∀ x, width = some x → x < 256 ^ 3) ∧ (∀ x, period = some x → x < 256 ^ 3)
      ∧ (∀ x, count = some x → x < 256 ^ 1)
      ∧ bytes = fire.elim [] (bytesOf 6) ++ (width.elim [] (bytesOf 3) ++ (period.elim [] (bytesOf 3)
          ++ (count.elim [] (bytesOf 1) ++ rest)))
      ∧ specFrom d action fire width period count = r := by
  simp only [cueSpecOf, Option.bind_eq_bind, Option.bind_eq_some_iff, Prod.exists, actionOf_eq_some_iff, takeOpt_iff,
    Option.some.injEq, Prod.mk.injEq]
  constructor
  · rintro ⟨action, haction, fire, _, ⟨hfire, kfire, rfl⟩, width, _, ⟨hwidth, kwidth, rfl⟩, period, _, ⟨hperiod, kperiod, rfl⟩,
      count, _, ⟨hcount, kcount, rfl⟩, rfl, rfl⟩
    exact ⟨action, fire, width, period, count, haction, hfire, hwidth, hperiod, hcount, kfire, kwidth, kperiod, kcount, rfl, rfl⟩
  · rintro ⟨action, fire, width, period, count, haction, hfire, hwidth, hperiod, hcount, kfire, kwidth, kperiod, kcount, rfl, rfl⟩
    exact ⟨action, haction, fire, _, ⟨hfire, kfire, rfl⟩, width, _, ⟨hwidth, kwidth, rfl⟩, period, _, ⟨hperiod, kperiod, rfl⟩,
      count, _, ⟨hcount, kcount, rfl⟩, rfl, rfl⟩

theorem elim_map_ofNat {w n : Nat} {v : Option Nat} (hw : 2 ^ w = 256 ^ n) (h : ∀ x, v = some x → x < 256 ^ n) :
    ((v.map (BitVec.ofNat w)).elim [] fun t => bytesOf n t.toNat) = v.elim [] (bytesOf n) := by
  cases v with
  | none => rfl
  | some x => simp [hw, Nat.mod_eq_of_lt (h x rfl)]

theorem toNat_lt_of_map {w n x : Nat} {v : Option (BitVec w)} (hw : 2 ^ w = 256 ^ n) (h : v.map BitVec.toNat = some x) :
    x < 256 ^ n := by
  obtain ⟨t, -, rfl⟩ := Option.map_eq_some_iff.mp h
  exact hw ▸ t.isLt

/-- A record read is whole, and its characters stand in front of the rest; a whole record is read back (R132). -/
theorem cueSpecOf_iff (bytes rest : List Byte) (r : CueSpec) :
    cueSpecOf bytes = some (r, rest) ↔ r.whole ∧ bytes = r.chars ++ rest := by
  have hone : ∀ v : Option Nat, v.elim [] (bytesOf 1) = (v.map (BitVec.ofNat 8)).elim [] fun n => [n] := fun v => by
    cases v <;> simp [bytesOf, byte]
  rw [whole_iff, chars_eq]
  cases bytes with
  | nil => simp [cueSpecOf]
  | cons d bytes =>
    rw [cueSpecOf_cons_iff]
    constructor
    · rintro ⟨action, fire, width, period, count, haction, hfire, hwidth, hperiod, hcount, kfire, kwidth, kperiod, -, rfl, rfl⟩
      have hd := descriptor_eq d
      rw [haction, ← hfire] at hd
      simp only [specFrom, Option.isSome_map]
      rw [elim_map_ofNat (w := 48) (n := 6) (by norm_num) kfire, elim_map_ofNat (w := 24) (n := 3) (by norm_num) kwidth,
        elim_map_ofNat (w := 24) (n := 3) (by norm_num) kperiod, ← hone]
      exact ⟨⟨hwidth, hperiod, hcount⟩, by simp only [hd, List.cons_append, List.append_assoc]⟩
    · rintro ⟨⟨hwidth, hperiod, hcount⟩, heq⟩
      simp only [List.cons_append, List.append_assoc, List.cons.injEq] at heq
      obtain ⟨rfl, rfl⟩ := heq
      obtain ⟨hchannel, haction, hreport, hfire⟩ := descriptor_fields r.channel r.action r.report r.fire.isSome
      refine ⟨r.action, r.fire.map BitVec.toNat, r.width.map BitVec.toNat, r.period.map BitVec.toNat, r.count.map BitVec.toNat,
        haction, by rw [hfire, Option.isSome_map], by rw [Option.isSome_map, hwidth], by rw [Option.isSome_map, hperiod],
        by rw [Option.isSome_map, hcount], fun x hx => ?_, fun x hx => ?_, fun x hx => ?_, fun x hx => ?_, ?_, ?_⟩
      · exact toNat_lt_of_map (n := 6) (by norm_num) hx
      · exact toNat_lt_of_map (n := 3) (by norm_num) hx
      · exact toNat_lt_of_map (n := 3) (by norm_num) hx
      · exact toNat_lt_of_map (n := 1) (by norm_num) hx
      · rw [hone, Option.map_map]
        simp only [Option.elim_map]
        cases r.count <;> simp [Function.comp_def]
      · unfold specFrom
        rw [hchannel, hreport]
        simp [Option.map_map, Function.comp_def]

end Sys2Proof.Machine

namespace Sys2Proof.Machine

/-! ### The layout check of POST and WITHDRAW (R209) -/

/-- The target of two characters, and the characters of a target (R132). -/
theorem targetOf_iff (t1 t2 : Byte) (target : Target) : targetOf t1 t2 = some target ↔ [t1, t2] = target.chars := by
  have hwhole : ∀ w, w ≤ 8 → t2.toNat < 2 ^ w → byte (t2.setWidth w).toNat = t2 := by
    intro w _ hlt
    apply BitVec.eq_of_toNat_eq
    rw [byte, BitVec.toNat_ofNat, BitVec.toNat_setWidth, Nat.mod_eq_of_lt hlt]
    omega
  have hkind : ∀ n, t1.toNat = n → t1 = BitVec.ofNat 8 n := fun n h => by rw [← h]; simp
  constructor
  · intro h
    unfold targetOf at h
    split at h
    · next h1 =>
      split at h
      · next h2 => rw [← Option.some.inj h, hkind 1 h1, Target.chars, hwhole 5 (by omega) (by omega)]; rfl
      · cases h
    · next h1 =>
      split at h
      · next h2 => rw [← Option.some.inj h, hkind 2 h1, Target.chars, hwhole 3 (by omega) (by omega)]; rfl
      · cases h
    · next h1 =>
      split at h
      · next h2 =>
        obtain rfl : t2 = 0 := BitVec.eq_of_toNat_eq h2
        rw [← Option.some.inj h, hkind 3 h1]
        rfl
      · cases h
    · cases h
  · intro h
    cases target with
    | all =>
      obtain ⟨rfl, rfl⟩ : t1 = 3 ∧ t2 = 0 := by simpa [Target.chars] using h
      rfl
    | one p =>
      obtain ⟨rfl, rfl⟩ : t1 = 1 ∧ t2 = byte p.toNat := by simpa [Target.chars] using h
      revert p; decide
    | group g =>
      obtain ⟨rfl, rfl⟩ : t1 = 2 ∧ t2 = byte g.toNat := by simpa [Target.chars] using h
      revert g; decide

theorem soundTarget_iff (t1 t2 : Byte) : soundTarget t1 t2 ↔ ∃ target, targetOf t1 t2 = some target := by
  unfold soundTarget targetOf
  split
  case h_1 h => simp [h]
  case h_2 h => simp [h]
  case h_3 h => simp [h]
  case h_4 h1 h2 h3 => simp [show t1.toNat ≠ 1 from h1, show t1.toNat ≠ 2 from h2, show t1.toNat ≠ 3 from h3]

theorem length_recordChars (r : CueSpec) (h : r.whole) : r.chars.length
    = (if r.fire.isSome then 7 else 1) + (if r.action.code = 4 then 3 else if r.action.code = 5 then 7 else 0) := by
  rw [whole_iff] at h
  obtain ⟨hwidth, hperiod, hcount⟩ := h
  rw [chars_eq]
  cases ha : r.action <;> cases r.fire <;> cases hw : r.width <;> cases hp : r.period <;> cases hc : r.count <;>
    simp_all [ActionKind.usesWidth, ActionKind.usesPeriod, ActionKind.code]

/-- A field that may be absent is read where there are characters enough. -/
theorem takeOpt_some {present : Bool} {n : Nat} {bytes : List Byte} (h : n * present.toNat ≤ bytes.length) :
    ∃ v rest, takeOpt present n bytes = some (v, rest) ∧ rest.length = bytes.length - n * present.toNat := by
  cases present with
  | false => exact ⟨none, bytes, rfl, by simp⟩
  | true =>
    have hnot : ¬ bytes.length < n := by simpa using h
    exact ⟨some (natOf (bytes.take n)), bytes.drop n, by simp [takeOpt, takeField, hnot], by simp⟩

/-- How many characters stand behind a descriptor (11.5). -/
def ActionKind.tail (a : ActionKind) (timed : Bool) : Nat :=
  6 * timed.toNat + 3 * a.usesWidth.toNat + 4 * a.usesPeriod.toNat

/-- A record is read where its action has a code and there are characters enough (R139). -/
theorem cueSpecOf_some {d : Byte} {bytes : List Byte} {a : ActionKind} (ha : d.toNat / 8 % 8 = a.code)
    (hlength : bytes.length = a.tail (d.getLsbD 7)) : ∃ r, cueSpecOf (d :: bytes) = some (r, []) := by
  unfold ActionKind.tail at hlength
  obtain ⟨fire, rest1, h1, k1⟩ := takeOpt_some (present := d.getLsbD 7) (n := 6) (bytes := bytes) (by omega)
  obtain ⟨width, rest2, h2, k2⟩ := takeOpt_some (present := a.usesWidth) (n := 3) (bytes := rest1) (by omega)
  obtain ⟨period, rest3, h3, k3⟩ := takeOpt_some (present := a.usesPeriod) (n := 3) (bytes := rest2) (by omega)
  obtain ⟨count, rest4, h4, k4⟩ := takeOpt_some (present := a.usesPeriod) (n := 1) (bytes := rest3) (by omega)
  have hnil : rest4 = [] := List.length_eq_zero_iff.mp (by omega)
  refine ⟨specFrom d a fire width period count, ?_⟩
  simp only [cueSpecOf, (actionOf_eq_some_iff _ _).mpr ha, h1, h2, h3, h4, hnil, Option.bind_eq_bind, Option.bind_some]
  rfl

theorem action_of_code {n : Nat} (hlow : 1 ≤ n) (hhigh : n ≤ 5) : ∃ a : ActionKind, n = a.code := by
  interval_cases n
  · exact ⟨.raise, rfl⟩
  · exact ⟨.lower, rfl⟩
  · exact ⟨.flip, rfl⟩
  · exact ⟨.pulse, rfl⟩
  · exact ⟨.train, rfl⟩

/-- A sound record is what a whole one travels as (R209, R132). -/
theorem soundRecord_iff (record : List Byte) : soundRecord record ↔ ∃ r : CueSpec, r.whole ∧ record = r.chars := by
  constructor
  · rintro ⟨d, rest, rfl, hlow, hhigh, hlength⟩
    obtain ⟨a, ha⟩ := action_of_code hlow hhigh
    have htail : rest.length = a.tail (d.getLsbD 7) := by
      rw [List.length_cons, ha] at hlength
      generalize d.getLsbD 7 = timed at hlength ⊢
      cases timed <;> cases a <;>
        simp [ActionKind.tail, ActionKind.code, ActionKind.usesWidth, ActionKind.usesPeriod] at hlength ⊢ <;> omega
    obtain ⟨r, hr⟩ := cueSpecOf_some ha htail
    obtain ⟨hwhole, hchars⟩ := (cueSpecOf_iff _ _ _).mp hr
    exact ⟨r, hwhole, by rw [hchars, List.append_nil]⟩
  · rintro ⟨r, hwhole, rfl⟩
    have hlength := length_recordChars r hwhole
    obtain ⟨-, haction, -, hfire⟩ := descriptor_fields r.channel r.action r.report r.fire.isSome
    refine ⟨_, _, chars_eq r, ?_, ?_, ?_⟩
    · rw [haction]; cases r.action <;> simp [ActionKind.code]
    · rw [haction]; cases r.action <;> simp [ActionKind.code]
    · rw [hlength, haction, hfire]

theorem localRecordsOf_iff (n : Nat) (bytes : List Byte) (records : List CueSpec) :
    localRecordsOf n bytes = some records ↔
      records.length = n ∧ (∀ r ∈ records, r.whole) ∧ bytes = records.flatMap CueSpec.chars := by
  induction n generalizing bytes records with
  | zero =>
    cases bytes <;> cases records <;> simp [localRecordsOf]
  | succ n ih =>
    simp only [localRecordsOf, Option.bind_eq_bind, Option.bind_eq_some_iff, Prod.exists, cueSpecOf_iff, ih, Option.some.injEq]
    constructor
    · rintro ⟨r, _, ⟨hr, rfl⟩, more, ⟨hlength, hmore, rfl⟩, rfl⟩
      exact ⟨by rw [List.length_cons, hlength], List.forall_mem_cons.mpr ⟨hr, hmore⟩, rfl⟩
    · rintro ⟨hlength, hwhole, rfl⟩
      cases records with
      | nil => cases hlength
      | cons r more =>
        obtain ⟨hr, hmore⟩ := List.forall_mem_cons.mp hwhole
        exact ⟨r, _, ⟨hr, rfl⟩, more, ⟨Nat.succ.inj hlength, hmore, rfl⟩, rfl⟩

theorem byte_toNat {n : Nat} (h : n < 256) : (byte n).toNat = n := by
  rw [byte, BitVec.toNat_ofNat, Nat.mod_eq_of_lt h]

theorem eq_byte_iff {c : Byte} {n : Nat} (h : n < 256) : c = byte n ↔ c.toNat = n := by
  rw [← BitVec.toNat_inj, byte_toNat h]

theorem targetChars_eq (target : Target) : ∃ t1 t2, target.chars = [t1, t2] := by cases target <;> exact ⟨_, _, rfl⟩

/-- The layout of a POST body (R209). -/
theorem postOf_iff (body : List Byte) (target : Target) (records : List CueSpec) :
    postOf body = some (target, records) ↔ 1 ≤ records.length ∧ records.length ≤ 4 ∧ (∀ r ∈ records, r.whole)
      ∧ body = target.chars ++ byte records.length :: records.flatMap CueSpec.chars := by
  constructor
  · intro h
    unfold postOf at h
    split at h
    · next t1 t2 count rest =>
      obtain ⟨found, htarget, h⟩ := Option.bind_eq_some_iff.mp h
      split at h
      · cases h
      · next hcount =>
        obtain ⟨walked, hwalk, h⟩ := Option.bind_eq_some_iff.mp h
        obtain ⟨rfl, rfl⟩ := Prod.mk.inj (Option.some.inj h)
        obtain ⟨hlength, hwhole, rfl⟩ := (localRecordsOf_iff _ _ _).mp hwalk
        rw [targetOf_iff] at htarget
        have hbyte : count = byte walked.length := (eq_byte_iff (by omega)).mpr hlength.symm
        exact ⟨by omega, by omega, hwhole, by rw [← htarget, ← hbyte]; rfl⟩
    · cases h
  · rintro ⟨hlow, hhigh, hwhole, rfl⟩
    obtain ⟨t1, t2, hchars⟩ := targetChars_eq target
    have hcount := byte_toNat (n := records.length) (by omega)
    have hwalk := (localRecordsOf_iff records.length _ records).mpr ⟨rfl, hwhole, rfl⟩
    have hrange : ¬ (records.length = 0 ∨ 4 < records.length) := by omega
    rw [hchars]
    simp only [postOf, List.cons_append, List.nil_append, (targetOf_iff t1 t2 target).mpr hchars.symm, Option.bind_eq_bind,
      Option.bind_some, hcount, if_neg hrange, hwalk]

/-- The layout of a WITHDRAW body (R209). -/
theorem withdrawOf_iff (body : List Byte) (target : Target) (serials : List Byte) :
    withdrawOf body = some (target, serials) ↔ 1 ≤ serials.length ∧ serials.length ≤ 8
      ∧ body = target.chars ++ byte serials.length :: serials := by
  constructor
  · intro h
    unfold withdrawOf at h
    split at h
    · next t1 t2 count named =>
      obtain ⟨found, htarget, h⟩ := Option.bind_eq_some_iff.mp h
      split at h
      · cases h
      · next hcount =>
        obtain ⟨rfl, rfl⟩ := Prod.mk.inj (Option.some.inj h)
        rw [targetOf_iff] at htarget
        have hbyte : count = byte named.length := (eq_byte_iff (by omega)).mpr (by omega)
        exact ⟨by omega, by omega, by rw [← htarget, ← hbyte]; rfl⟩
    · cases h
  · rintro ⟨hlow, hhigh, rfl⟩
    obtain ⟨t1, t2, hchars⟩ := targetChars_eq target
    have hcount := byte_toNat (n := serials.length) (by omega)
    have hrange : ¬ ((byte serials.length).toNat = 0 ∨ 8 < (byte serials.length).toNat
        ∨ serials.length ≠ (byte serials.length).toNat) := by omega
    rw [hchars]
    simp only [withdrawOf, List.cons_append, List.nil_append, (targetOf_iff t1 t2 target).mpr hchars.symm,
      Option.bind_eq_bind, Option.bind_some, if_neg hrange]

/-- Sound records are what whole ones travel as. -/
theorem soundRecords_iff (records : List (List Byte)) : (∀ record ∈ records, soundRecord record) ↔
    ∃ rs : List CueSpec, (∀ r ∈ rs, r.whole) ∧ records = rs.map CueSpec.chars := by
  constructor
  · intro h
    induction records with
    | nil => exact ⟨[], by simp⟩
    | cons record records ih =>
      obtain ⟨hrecord, hrest⟩ := List.forall_mem_cons.mp h
      obtain ⟨r, hr, rfl⟩ := (soundRecord_iff record).mp hrecord
      obtain ⟨rs, hrs, rfl⟩ := ih hrest
      exact ⟨r :: rs, List.forall_mem_cons.mpr ⟨hr, hrs⟩, rfl⟩
  · rintro ⟨rs, hrs, rfl⟩ record hrecord
    obtain ⟨r, hr, rfl⟩ := List.mem_map.mp hrecord
    exact (soundRecord_iff _).mpr ⟨r, hrs r hr, rfl⟩

theorem soundPost_iff (body : List Byte) : soundPost body ↔ ∃ target records, postOf body = some (target, records) := by
  simp only [postOf_iff]
  constructor
  · rintro ⟨t1, t2, count, records, rfl, htarget, hlow, hhigh, hlength, hsound⟩
    obtain ⟨target, htarget⟩ := (soundTarget_iff t1 t2).mp htarget
    rw [targetOf_iff] at htarget
    obtain ⟨rs, hwhole, rfl⟩ := (soundRecords_iff records).mp hsound
    rw [List.length_map] at hlength
    have hbyte : count = byte rs.length := (eq_byte_iff (by omega)).mpr hlength.symm
    exact ⟨target, rs, by omega, by omega, hwhole, by rw [← htarget, ← hbyte, List.flatMap_def]; rfl⟩
  · rintro ⟨target, rs, hlow, hhigh, hwhole, rfl⟩
    obtain ⟨t1, t2, hchars⟩ := targetChars_eq target
    have hcount := byte_toNat (n := rs.length) (by omega)
    refine ⟨t1, t2, byte rs.length, rs.map CueSpec.chars, ?_, (soundTarget_iff t1 t2).mpr ⟨target, (targetOf_iff _ _ _).mpr hchars.symm⟩,
      by omega, by omega, by rw [List.length_map, hcount], (soundRecords_iff _).mpr ⟨rs, hwhole, rfl⟩⟩
    rw [hchars, List.flatMap_def]
    rfl

theorem soundWithdraw_iff (body : List Byte) :
    soundWithdraw body ↔ ∃ target serials, withdrawOf body = some (target, serials) := by
  simp only [withdrawOf_iff]
  constructor
  · rintro ⟨t1, t2, count, serials, rfl, htarget, hlow, hhigh, hlength⟩
    obtain ⟨target, htarget⟩ := (soundTarget_iff t1 t2).mp htarget
    rw [targetOf_iff] at htarget
    simp only [List.length_cons] at hlength
    have hbyte : count = byte serials.length := (eq_byte_iff (by omega)).mpr (by omega)
    exact ⟨target, serials, by omega, by omega, by rw [← htarget, ← hbyte]; rfl⟩
  · rintro ⟨target, serials, hlow, hhigh, rfl⟩
    obtain ⟨t1, t2, hchars⟩ := targetChars_eq target
    have hcount := byte_toNat (n := serials.length) (by omega)
    refine ⟨t1, t2, byte serials.length, serials, by rw [hchars]; rfl,
      (soundTarget_iff t1 t2).mpr ⟨target, (targetOf_iff _ _ _).mpr hchars.symm⟩, by omega, by omega, ?_⟩
    rw [hchars, hcount]
    simp only [List.length_append, List.length_cons, List.length_nil]
    omega

/-- A request that carries no body is refused with one (R209). -/
theorem bodyless_refused {body : List Byte} (h : body ≠ []) (taken : State → State) (code : Byte) (s : State) :
    bodyless body taken (gatherRequest code body s) = s.replied (wholeRequest code body) .badRequest [] := by
  obtain ⟨hnil, -⟩ | ⟨-, hrefused⟩ := bodyless_spec (gatherRequest code body s) body taken
  · exact absurd hnil h
  · exact hrefused

theorem exec_post {body : List Byte} (s : State) : exec (.post body) s = .next (post body (gatherRequest 6 body s)) :=
  exec_eq s (.post body)

theorem exec_withdraw {body : List Byte} (s : State) :
    exec (.withdraw body) s = .next (withdraw body (gatherRequest 7 body s)) := exec_eq s (.withdraw body)

/-- Settles O7: the requests that fail the layout check are those that give no target with records or serials. -/
theorem unsoundRequestsAreBadRequest : Obligations.UnsoundRequestsAreBadRequest := by
  intro s body
  refine ⟨fun code => exec_eq s (.unknownRequestCode code body), fun hbody c hc => ?_, fun hlength => ?_, fun hunsound => ?_,
    fun hunsound => ?_, soundPost_iff body, soundWithdraw_iff body, postOf_iff body, withdrawOf_iff body⟩
  · rw [exec_eq]
    refine congrArg Host.Outcome.next ?_
    simp only [bodylessRequests, List.mem_cons, List.not_mem_nil, or_false] at hc
    obtain rfl | rfl | rfl | rfl | rfl | rfl | rfl | rfl | rfl := hc <;> exact bodyless_refused hbody _ _ s
  · rw [exec_eq]
    exact congrArg Host.Outcome.next (if_pos hlength)
  · have hnone : postOf body = none := by
      rw [Option.eq_none_iff_forall_ne_some]
      exact fun ⟨target, records⟩ h => hunsound ((soundPost_iff body).mpr ⟨target, records, h⟩)
    rw [exec_post, post, hnone]
    rfl
  · have hnone : withdrawOf body = none := by
      rw [Option.eq_none_iff_forall_ne_some]
      exact fun ⟨target, serials⟩ h => hunsound ((soundWithdraw_iff body).mpr ⟨target, serials, h⟩)
    rw [exec_withdraw, withdraw, hnone]
    rfl

end Sys2Proof.Machine

namespace Sys2Proof.Machine

/-! ### Configuration records (R192) -/

/-- The fields in front of the channels (10.3). -/
def invalidHead (body : List Byte) (n : Nat) : Prop :=
  n = 2 ∧ 5 < (charAt body 2).toNat ∨ n = 3 ∧ (fieldAt body 3).toNat < 16
    ∨ n = 4 ∧ ((fieldAt body 5).toNat < 1 ∨ 4095 < (fieldAt body 5).toNat
      ∨ (fieldAt body 3).toNat < 4 * (fieldAt body 5).toNat)
    ∨ n = 5 ∧ (charAt body 7).toNat < 1 ∨ n = 7 ∧ ((charAt body 9).toNat < 1 ∨ 48 < (charAt body 9).toNat)
    ∨ n = 8 ∧ (charAt body 10).toNat < 1

/-- The fields of channel c that its mode uses (10.3). -/
def invalidAt (body : List Byte) (c n : Nat) : Prop :=
  n = 9 + 6 * c ∧ 2 < (charAt body (11 + 7 * c)).toNat
    ∨ n = 10 + 6 * c ∧ (charAt body (11 + 7 * c)).toNat = 1 ∧ 1 < (charAt body (12 + 7 * c)).toNat
    ∨ n = 11 + 6 * c ∧ (charAt body (11 + 7 * c)).toNat = 2 ∧ 2 < (charAt body (13 + 7 * c)).toNat
    ∨ n = 13 + 6 * c ∧ (charAt body (11 + 7 * c)).toNat = 2 ∧ 1 < (charAt body (16 + 7 * c)).toNat
    ∨ n = 14 + 6 * c ∧ (charAt body (11 + 7 * c)).toNat = 2
      ∧ ¬ ((charAt body (17 + 7 * c)).toNat = 0
        ∨ 16 ≤ (charAt body (17 + 7 * c)).toNat ∧ (charAt body (17 + 7 * c)).toNat ≤ 23
        ∨ (charAt body (17 + 7 * c)).toNat = 32)

theorem invalidField_iff (body : List Byte) (n : Nat) :
    invalidField body n ↔ invalidHead body n ∨ ∃ c < 8, invalidAt body c n := by
  simp only [invalidField, invalidHead, invalidAt, or_assoc]

/-- The share targets that have a code (11.5). -/
theorem shareOf_isNone_iff (b : Byte) :
    (shareOf b).isNone = true ↔ ¬ (b.toNat = 0 ∨ 16 ≤ b.toNat ∧ b.toNat ≤ 23 ∨ b.toNat = 32) := by
  revert b
  decide +kernel

/-- An option is the least number with a property, or none where no number has it. -/
def IsLeast? (P : Nat → Prop) : Option Nat → Prop
  | none => ∀ n, ¬ P n
  | some n => P n ∧ ∀ m < n, ¬ P m

theorem isLeast?_ite {P : Nat → Prop} {c : Prop} [Decidable c] {n : Nat} {o : Option Nat}
    (hthis : c → P n ∧ ∀ m < n, ¬ P m) (hrest : ¬ c → IsLeast? P o) : IsLeast? P (if c then some n else o) := by
  split
  · next h => exact hthis h
  · next h => exact hrest h

/-- The first field of a channel that is not valid. -/
theorem channelFault_isLeast (body : List Byte) (c : Nat) : IsLeast? (invalidAt body c) (channelFault body c) := by
  unfold channelFault
  split
  case h_1 hmode =>
    intro n
    simp only [invalidAt, hmode]
    omega
  case h_2 hmode =>
    refine isLeast?_ite (fun h => ⟨?_, fun m hm => ?_⟩) fun h n => ?_ <;> unfold invalidAt <;> omega
  case h_3 hmode =>
    simp only [shareOf_isNone_iff]
    refine isLeast?_ite (fun h => ⟨?_, fun m hm => ?_⟩) fun hsense => isLeast?_ite (fun h => ⟨?_, fun m hm => ?_⟩) fun hreport =>
      isLeast?_ite (fun h => ⟨?_, fun m hm => ?_⟩) fun hshare n => ?_ <;>
      unfold invalidAt <;> omega
  case h_4 h0 h1 h2 =>
    have hmode : 2 < (charAt body (11 + 7 * c)).toNat := by
      have h0 : (charAt body (11 + 7 * c)).toNat ≠ 0 := h0
      have h1 : (charAt body (11 + 7 * c)).toNat ≠ 1 := h1
      have h2 : (charAt body (11 + 7 * c)).toNat ≠ 2 := h2
      omega
    refine ⟨?_, fun m hm => ?_⟩ <;> unfold invalidAt <;> omega

theorem invalidAt_range {body : List Byte} {c n : Nat} (h : invalidAt body c n) : 9 + 6 * c ≤ n ∧ n ≤ 14 + 6 * c := by
  unfold invalidAt at h
  omega

theorem invalidHead_range {body : List Byte} {n : Nat} (h : invalidHead body n) : 2 ≤ n ∧ n ≤ 8 := by
  unfold invalidHead at h
  omega

/-- The first channel with a field that is not valid gives the least such field. -/
theorem channelFaults_isLeast (body : List Byte) :
    IsLeast? (fun n => ∃ c < 8, invalidAt body c n) ((List.range 8).findSome? (channelFault body)) := by
  have hnone : ∀ c, channelFault body c = none → ∀ n, ¬ invalidAt body c n := fun c hc => by
    have := channelFault_isLeast body c
    rwa [hc] at this
  cases hfound : (List.range 8).findSome? (channelFault body) with
  | none =>
    rw [List.findSome?_eq_none_iff] at hfound
    rintro n ⟨c, hc, hn⟩
    exact hnone c (hfound c (List.mem_range.mpr hc)) n hn
  | some n =>
    obtain ⟨front, c, back, hrange, hc, hfront⟩ := List.findSome?_eq_some_iff.mp hfound
    have hleast := channelFault_isLeast body c
    rw [hc] at hleast
    obtain ⟨hinvalid, hleast⟩ := hleast
    have hlt : c < 8 := List.mem_range.mp (hrange ▸ by simp)
    refine ⟨⟨c, hlt, hinvalid⟩, ?_⟩
    rintro m hm ⟨d, hd, hinvalid'⟩
    have hmem : d ∈ front ++ c :: back := hrange ▸ List.mem_range.mpr hd
    have hsorted : (front ++ c :: back).Pairwise (· < ·) := hrange ▸ List.pairwise_lt_range
    obtain hd | hd := List.mem_append.mp hmem
    · exact hnone d (hfront d hd) m hinvalid'
    · obtain rfl | hd := List.mem_cons.mp hd
      · exact hleast m hm hinvalid'
      · have hcd : c < d := (List.pairwise_cons.mp (List.pairwise_append.mp hsorted).2.1).1 d hd
        have := invalidAt_range hinvalid
        have := invalidAt_range hinvalid'
        omega

/-- The field that a refused record names is the least that is not valid (R192). -/
theorem configFault_isLeast (body : List Byte) : IsLeast? (invalidField body) (configFault body) := by
  have htail := channelFaults_isLeast body
  have hchannel : ∀ n, (∃ c < 8, invalidAt body c n) → 9 ≤ n := by
    rintro n ⟨c, -, h⟩
    have := invalidAt_range h
    omega
  have hhere : ∀ n, invalidHead body n → (∀ m < n, ¬ invalidHead body m) → invalidField body n ∧ ∀ m < n, ¬ invalidField body m := by
    intro n hn hleast
    have := invalidHead_range hn
    refine ⟨(invalidField_iff _ _).mpr (.inl hn), fun m hm h => ?_⟩
    obtain h | h := (invalidField_iff _ _).mp h
    · exact hleast m hm h
    · have := hchannel m h
      omega
  unfold configFault
  refine isLeast?_ite (fun h => hhere _ ?_ fun m hm => ?_) fun h2 => isLeast?_ite (fun h => hhere _ ?_ fun m hm => ?_) fun h3 =>
    isLeast?_ite (fun h => hhere _ ?_ fun m hm => ?_) fun h4 => isLeast?_ite (fun h => hhere _ ?_ fun m hm => ?_) fun h5 =>
    isLeast?_ite (fun h => hhere _ ?_ fun m hm => ?_) fun h7 => isLeast?_ite (fun h => hhere _ ?_ fun m hm => ?_) fun h8 => ?channels
  case channels =>
    have hhead : ∀ n, ¬ invalidHead body n := fun n => by
      unfold invalidHead
      omega
    have heq : invalidField body = fun n => ∃ c < 8, invalidAt body c n := by
      funext n
      simp [invalidField_iff, hhead]
    rwa [heq]
  all_goals unfold invalidHead; omega

theorem isLeast?_unique {P : Nat → Prop} {o : Option Nat} (h : IsLeast? P o) {n : Nat} (hn : P n) (hleast : ∀ m < n, ¬ P m) :
    o = some n := by
  cases o with
  | none => exact absurd hn (h n)
  | some m =>
    obtain ⟨hm, hbelow⟩ := h
    have : ¬ m < n := fun hlt => hleast m hlt hm
    have : ¬ n < m := fun hlt => hbelow n hlt hn
    exact congrArg some (by omega)

theorem isLeast?_none {P : Nat → Prop} {o : Option Nat} (h : IsLeast? P o) (hnone : ∀ n, ¬ P n) : o = none := by
  cases o with
  | none => rfl
  | some n => exact absurd h.1 (hnone n)

/-- The characters of a body, counted from 1 (11.5). -/
theorem charAt_eq (body : List Byte) {n : Nat} (h : n < body.length) : body[n]? = some (charAt body (n + 1)) := by
  simp [charAt, h]

theorem fieldAt_toNat (body : List Byte) (i : Nat) :
    (fieldAt body i).toNat = 256 * (charAt body i).toNat + (charAt body (i + 1)).toNat := by
  have h1 : (charAt body i).toNat < 256 := (charAt body i).isLt
  have h2 : (charAt body (i + 1)).toNat < 256 := (charAt body (i + 1)).isLt
  simp only [fieldAt, natOf, List.foldl_cons, List.foldl_nil, BitVec.toNat_ofNat]
  omega

/-- The share targets by their codes (11.5). -/
theorem shareOf_of_code {b : Byte} {share : Share} (h : b.toNat = 0 ∧ share = .none
    ∨ (∃ g : GroupNo, b.toNat = 16 + g.toNat ∧ share = .group g) ∨ b.toNat = 32 ∧ share = .all) : shareOf b = some share := by
  obtain ⟨hb, rfl⟩ | ⟨g, hb, rfl⟩ | ⟨hb, rfl⟩ := h
  · obtain rfl : b = 0 := BitVec.eq_of_toNat_eq hb
    rfl
  · have hg := g.isLt
    obtain rfl : b = byte (16 + g.toNat) := (eq_byte_iff (by omega)).mpr hb
    revert g
    decide
  · obtain rfl : b = 32 := BitVec.eq_of_toNat_eq hb
    rfl

/-- The edge senses by their codes (11.5). -/
theorem senseOf_of_code {b : Byte} {sense : EdgeSense} (h : b.toNat = 0 ∧ sense = .rising ∨ b.toNat = 1 ∧ sense = .falling
    ∨ b.toNat = 2 ∧ sense = .both) : senseOf b = sense := by
  unfold senseOf
  obtain ⟨hb, rfl⟩ | ⟨hb, rfl⟩ | ⟨hb, rfl⟩ := h <;> rw [hb] <;> rfl

/-- The mode of a channel by its character (11.5). -/
theorem channelModeOf_off {body : List Byte} {c : Nat} (h : (charAt body (11 + 7 * c)).toNat = 0) :
    channelModeOf body c = .off := by
  unfold channelModeOf
  rw [h]
  rfl

theorem channelModeOf_output {body : List Byte} {c : Nat} (h : (charAt body (11 + 7 * c)).toNat = 1) :
    channelModeOf body c = .output (decide ((charAt body (12 + 7 * c)).toNat = 1)) := by
  unfold channelModeOf
  rw [h]
  exact congrArg ChannelMode.output (beq_eq_decide ..)

theorem channelModeOf_input {body : List Byte} {c : Nat} (h : (charAt body (11 + 7 * c)).toNat = 2) {sense : EdgeSense}
    {share : Share} (hsense : senseOf (charAt body (13 + 7 * c)) = sense)
    (hshare : shareOf (charAt body (17 + 7 * c)) = some share) : channelModeOf body c = .input {
      sense := sense
      holdoff := fieldAt body (14 + 7 * c)
      localReport := decide ((charAt body (16 + 7 * c)).toNat = 1)
      share := share } := by
  unfold channelModeOf
  rw [h, hsense, hshare, beq_eq_decide]
  rfl

theorem acceptConfig_chan (config : ConfigRecord) (s : State) (c : ChannelNo) :
    (acceptConfig config s).chan c = Channel.setUp config.modes[c.toNat] :=
  chan_ofFn (v := fun i => Channel.setUp (modeOf (some config) i)) (acceptConfig config s) rfl c

/-- What a CONFIGURE of 66 characters comes to (R192, R193). -/
theorem configure_cases (s : State) {body : List Byte} (h : body.length = 66) : configure body s =
    if s.control.station ≠ .prep then answer (Reply.refusal .notPrep) s
    else match configFault body with
      | some field => answer (Reply.refusalAt .badConfig field) s
      | none => answer Reply.okReply (acceptConfig (configOf body) s) :=
  if_neg (not_not.mpr h)

/-- Settles O8: the first field that is not valid is named, and a valid record sets the channels and the attention. -/
theorem configureIsRefusedOrAccepted : Obligations.ConfigureIsRefusedOrAccepted := by
  intro s body hlength
  have hleast := configFault_isLeast body
  have htaken := configure_cases (gatherRequest 1 body s) hlength
  refine ⟨fun hopen => ?_, fun hprep field hfield hbelow => ?_, fun hprep hvalid => ?_, fun n hn => ⟨charAt_eq body (hlength ▸ hn),
    fieldAt_toNat body (n + 1)⟩, rfl, rfl, rfl, rfl, rfl, rfl, rfl, rfl, fun c => ⟨?_, ?_⟩⟩
  · exact (exec_eq s (.configure body)).trans (congrArg Host.Outcome.next (htaken.trans (if_pos hopen)))
  · rw [isLeast?_unique hleast hfield hbelow] at htaken
    exact (exec_eq s (.configure body)).trans (congrArg Host.Outcome.next (htaken.trans (if_neg (not_not.mpr hprep))))
  · rw [isLeast?_none hleast hvalid] at htaken
    refine ⟨_, (exec_eq s (.configure body)).trans (congrArg Host.Outcome.next (htaken.trans (if_neg (not_not.mpr hprep)))), rfl,
      fun c => ?_, ?_, rfl, rfl, rfl, rfl, rfl, rfl, rfl, rfl, rfl, rfl, rfl⟩
    · refine (acceptConfig_chan (configOf body) (gatherRequest 1 body s) c).trans ?_
      have hmode : (configOf body).modes[c.toNat] = channelModeOf body c.toNat := by simp [configOf]
      rw [hmode]
      cases channelModeOf body c.toNat <;> rfl
    · cases hqueue : s.port.queue <;> simp [answer, acceptConfig, gatherRequest, State.onPort, State.onControl, State.onChans,
        State.now, Reply.okReply, wholeRequest, byte, hqueue]
  · simp [configOf]
  · refine ⟨fun h => channelModeOf_off ?_, fun h _ => channelModeOf_output ?_, fun h _ sense share hsense hshare => ?_⟩
    · exact h
    · exact h
    · exact channelModeOf_input h (senseOf_of_code hsense) (shareOf_of_code hshare)

end Sys2Proof.Machine

namespace Sys2Proof.Machine

/-! ### The refusals of POST and WITHDRAW (R104, R105) -/

theorem exec_post_of {body : List Byte} {target : Target} {records : List CueSpec} (h : postOf body = some (target, records))
    (s : State) : exec (.post body) s = .next (answer (takePost target records (gatherRequest 6 body s)).2
      (takePost target records (gatherRequest 6 body s)).1) := by
  rw [exec_post, post, h]

theorem exec_withdraw_of {body : List Byte} {target : Target} {serials : List Byte}
    (h : withdrawOf body = some (target, serials)) (s : State) :
    exec (.withdraw body) s = .next (answer (takeWithdraw target serials (gatherRequest 7 body s)).2
      (takeWithdraw target serials (gatherRequest 7 body s)).1) := by
  rw [exec_withdraw, withdraw, h]

theorem takePost_refused {target : Target} {records : List CueSpec} {s : State} {status : Status}
    (h : s.postRefusal = some status) : takePost target records s = (s, Reply.refusal status) := by
  rw [takePost, h]

theorem takeWithdraw_refused {target : Target} {serials : List Byte} {s : State} {status : Status}
    (h : s.postRefusal = some status) : takeWithdraw target serials s = (s, Reply.refusal status) := by
  rw [takeWithdraw, h]

/-- The checks before BAD_RECORD pass (R104). -/
theorem postRefusal_eq_none {s : State} (hactive : s.control.station = .active) (hlist : s.post.list.length < 8)
    (hroom : s.reportSum < 48) : s.postRefusal = none := by
  unfold State.postRefusal
  rw [if_neg (not_not.mpr hactive), if_neg (by unfold postingCapacity; omega), if_neg (by unfold reportCapacity; omega)]

/-- The first record that is MALFORMED is named, counted on from an index (R104). -/
theorem recordFault_first {records : List CueSpec} {i : Nat} (k : Nat) (hi : i < records.length)
    (hbad : records[i].heldAction = none) (hgood : ∀ j, ∀ hj : j < i, (records[j]'(by omega)).heldAction ≠ none) :
    recordFault k records = some (k + i) := by
  induction records generalizing i k with
  | nil => cases hi
  | cons r rest ih =>
    cases i with
    | zero => simp_all [recordFault]
    | succ i =>
      have hr : r.heldAction ≠ none := hgood 0 (by omega)
      have hrest := ih (k + 1) (i := i) (by simpa using hi) (by simpa using hbad)
        (fun j hj => by simpa using hgood (j + 1) (by omega))
      rw [recordFault, if_neg (by simpa using hr), hrest]
      congr 1
      omega

/-- The first serial that is carried or named before is named, counted on from an index (R105). -/
theorem serialFault_first {serials carried : List Byte} {i : Nat} (k : Nat) (hi : i < serials.length)
    (hbad : serials[i] ∈ carried ∨ serials[i] ∈ serials.take i)
    (hgood : ∀ j, ∀ hj : j < i, (serials[j]'(by omega)) ∉ carried ∧ (serials[j]'(by omega)) ∉ serials.take j) :
    serialFault carried k serials = some (k + i) := by
  induction serials generalizing i k carried with
  | nil => cases hi
  | cons v rest ih =>
    cases i with
    | zero => simp_all [serialFault]
    | succ i =>
      have hv : v ∉ carried := (hgood 0 (by omega)).1
      have hrest := ih (k + 1) (carried := v :: carried) (i := i) (by simpa using hi)
        (by simpa [or_assoc, or_left_comm] using hbad)
        (fun j hj => by simpa [not_or, and_assoc, and_left_comm] using hgood (j + 1) (by omega))
      rw [serialFault, if_neg (by simpa using hv), hrest]
      congr 1
      omega

/-- Settles O14: the checks in their order, and the first record or serial that fails. -/
theorem postAndWithdrawAreRefusedInOrder : Obligations.PostAndWithdrawAreRefusedInOrder := by
  intro s body code c hc refused
  have hrefused : ∀ status, s.postRefusal = some status → refused status [] := by
    intro status hstatus
    obtain ⟨rfl, rfl, hsound⟩ | ⟨rfl, rfl, hsound⟩ := hc
    · obtain ⟨target, records, hbody⟩ := (soundPost_iff body).mp hsound
      refine (exec_post_of hbody s).trans (congrArg Host.Outcome.next ?_)
      rw [takePost_refused (s := gatherRequest 6 body s) hstatus]
      rfl
    · obtain ⟨target, serials, hbody⟩ := (soundWithdraw_iff body).mp hsound
      refine (exec_withdraw_of hbody s).trans (congrArg Host.Outcome.next ?_)
      rw [takeWithdraw_refused (s := gatherRequest 7 body s) hstatus]
      rfl
  refine ⟨fun hactive => hrefused _ (if_pos hactive), fun hactive hfull => hrefused _ ?_, fun hactive hlist hroom => hrefused _ ?_,
    fun hactive hlist hroom => ⟨fun target records hpost hbody i hi hbad hgood => ?_,
      fun target serials hwithdraw hbody i hi hbad hgood => ?_⟩⟩
  · rw [State.postRefusal, if_neg (not_not.mpr hactive)]
    exact if_pos hfull
  · rw [State.postRefusal, if_neg (not_not.mpr hactive), if_neg (by unfold postingCapacity; omega)]
    exact if_pos hroom
  · obtain ⟨rfl, -⟩ | ⟨-, rfl, -⟩ := hc
    · subst hpost
      refine (exec_post_of hbody s).trans (congrArg Host.Outcome.next ?_)
      have hnone : (gatherRequest 6 body s).postRefusal = none := postRefusal_eq_none (s := s) hactive hlist hroom
      simp only [takePost, hnone, recordFault_first 1 hi hbad hgood, Nat.add_comm 1 i]
      rfl
    · cases hpost
  · obtain ⟨-, rfl, -⟩ | ⟨rfl, -⟩ := hc
    · cases hwithdraw
    · subst hwithdraw
      refine (exec_withdraw_of hbody s).trans (congrArg Host.Outcome.next ?_)
      have hnone : (gatherRequest 7 body s).postRefusal = none := postRefusal_eq_none (s := s) hactive hlist hroom
      have hcarried : (gatherRequest 7 body s).carriedSerials = s.carriedSerials := rfl
      simp only [takeWithdraw, hnone, hcarried, serialFault_first 1 hi hbad hgood, Nat.add_comm 1 i]
      rfl

/-! ### The expected set (R108) -/

/-- Settles O17: the expected set, target by target. -/
theorem expectedSetByTarget : Obligations.ExpectedSetByTarget := by
  intro s n hself
  have hsorted : (stations.map BitVec.toNat).Pairwise (· < ·) := by decide
  have hmem : ∀ target, (∀ p, target ≠ .one p) → ∀ e, e ∈ s.expectedSet target n ↔
      e.answers = List.replicate n .none ∧ s.expectedPeer target e.station = true := by
    intro target hone e
    have hset : s.expectedSet target n
        = (stations.filter (s.expectedPeer target)).map fun p => { station := p, answers := List.replicate n .none } := by
      cases target with
      | one p => exact absurd rfl (hone p)
      | group g => rfl
      | all => rfl
    rw [hset, List.mem_map]
    constructor
    · rintro ⟨p, hp, rfl⟩
      exact ⟨rfl, (List.mem_filter.mp hp).2⟩
    · rintro ⟨hanswers, hpeer⟩
      exact ⟨e.station, List.mem_filter.mpr ⟨mem_stations _, hpeer⟩, by rw [← hanswers]⟩
  refine ⟨if_pos rfl, fun p hp => if_neg hp, fun g e => ?_, fun e => ?_, fun target e he =>
    station_ne_own_of_expectedSet (s := s) hself he, fun target => ?_⟩
  · rw [hmem _ (by simp)]
    refine and_congr_right fun _ => ?_
    unfold State.expectedPeer
    cases s.peer? e.station <;> simp
  · rw [hmem _ (by simp)]
    refine and_congr_right fun _ => ?_
    unfold State.expectedPeer
    cases s.peer? e.station <;> simp
  · have hgroup : ∀ f : StationNo → Bool, (((stations.filter f).map fun p => ({ station := p, answers := List.replicate n .none } :
        Expected)).map fun e => e.station.toNat).Pairwise (· < ·) := by
      intro f
      rw [List.map_map, show (fun e : Expected => e.station.toNat) ∘ (fun p => { station := p, answers := List.replicate n .none })
        = BitVec.toNat from rfl]
      exact hsorted.sublist (List.filter_sublist.map _)
    cases target with
    | one p =>
      unfold State.expectedSet
      simp only []
      split <;> simp
    | group g => exact hgroup _
    | all => exact hgroup _

end Sys2Proof.Machine

namespace Sys2Proof.Machine

/-! ### Serials, ids and deadlines (R106, R111) -/

/-- The values before the first free one are in use (R106). -/
theorem nextFree_first {used : List Byte} {counter : Byte} (h : used.length < 256) {k : Nat}
    (hk : k < (nextFree used counter - counter).toNat) : counter + BitVec.ofNat 8 k ∈ used := by
  have hfree := nextFree_not_mem used counter h
  unfold nextFree at hk hfree
  rw [List.find?_map] at hk hfree
  cases hfind : (List.range 256).find? ((fun v => !used.contains v) ∘ fun k => counter + byte k) with
  | none =>
    rw [hfind] at hk
    simp at hk
  | some i =>
    obtain ⟨-, hi, hbefore⟩ := List.find?_range_eq_some.mp hfind
    rw [hfind] at hk
    have hdistance : (counter + byte i - counter).toNat = i := by
      rw [add_sub_cancel_left, byte_toNat (List.mem_range.mp hi)]
    have hki : k < i := hdistance ▸ hk
    simpa [byte] using hbefore k hki

/-- A value that is not in use is the first free one from itself. -/
theorem nextFree_self {used : List Byte} {counter : Byte} (h : used.length < 256) (hfree : counter ∉ used) :
    nextFree used counter = counter := by
  by_contra hne
  have hpos : 0 < (nextFree used counter - counter).toNat := by
    refine Nat.pos_of_ne_zero fun hzero => hne (sub_eq_zero.mp ?_)
    exact BitVec.eq_of_toNat_eq hzero
  exact hfree (by simpa using nextFree_first h hpos)

/-- Each serial is the first free one from the counter, or from the serial before it (R106). -/
theorem takeSerials_first (n : Nat) (used : List Byte) (counter : Byte) (h : used.length + n ≤ 256) {front back : List Byte}
    {v : Byte} (hsplit : (takeSerials used n counter).1 = front ++ v :: back) {k : Nat}
    (hk : k < (v - front.getLast?.elim counter (· + 1)).toNat) :
    front.getLast?.elim counter (· + 1) + BitVec.ofNat 8 k ∈ used ++ front := by
  induction n generalizing used counter front with
  | zero => simp [takeSerials] at hsplit
  | succ n ih =>
    have hcons : nextFree used counter :: (takeSerials (nextFree used counter :: used) n (nextFree used counter + 1)).1
        = front ++ v :: back := hsplit
    cases front with
    | nil =>
      obtain ⟨rfl, -⟩ := List.cons.inj hcons
      simpa using nextFree_first (by omega) hk
    | cons w front =>
      obtain ⟨rfl, hrest⟩ := List.cons.inj hcons
      have hlast : (nextFree used counter :: front).getLast?.elim counter (· + 1)
          = front.getLast?.elim (nextFree used counter + 1) (· + 1) := by
        rw [List.getLast?_cons]
        cases front.getLast? <;> rfl
      rw [hlast] at hk ⊢
      have := ih (nextFree used counter :: used) (nextFree used counter + 1) (by simp; omega) hrest hk
      simpa [or_left_comm] using this

/-- The counter stands one past the last serial taken (R106). -/
theorem takeSerials_counter (n : Nat) (used : List Byte) (counter : Byte) :
    (takeSerials used n counter).2 = (takeSerials used n counter).1.getLast?.elim counter (· + 1) := by
  induction n generalizing used counter with
  | zero => rfl
  | succ n ih =>
    have hcons : (takeSerials used (n + 1) counter).1
        = nextFree used counter :: (takeSerials (nextFree used counter :: used) n (nextFree used counter + 1)).1 := rfl
    refine (ih (nextFree used counter :: used) (nextFree used counter + 1)).trans ?_
    rw [hcons, List.getLast?_cons]
    cases ((takeSerials (nextFree used counter :: used) n (nextFree used counter + 1)).1).getLast? <;> rfl

/-- The deadline is a fire time with the smallest ahead distance (R111). -/
theorem earliest_spec (now : Time) (times : List Time) (h : times ≠ []) :
    ∃ d ∈ times, earliest now times = some d ∧ ∀ f ∈ times, ahead d now ≤ ahead f now := by
  induction times with
  | nil => exact absurd rfl h
  | cons t rest ih =>
    cases rest with
    | nil => exact ⟨t, by simp, rfl, by simp⟩
    | cons u rest =>
      obtain ⟨d, hd, hearliest, hleast⟩ := ih (by simp)
      by_cases hle : ahead t now ≤ ahead d now
      · refine ⟨t, by simp, by simp only [earliest] at hearliest ⊢; rw [hearliest]; exact if_pos hle, fun f hf => ?_⟩
        obtain rfl | hf := List.mem_cons.mp hf
        · exact Nat.le_refl _
        · exact hle.trans (hleast f hf)
      · refine ⟨d, List.mem_cons_of_mem _ hd, by simp only [earliest] at hearliest ⊢; rw [hearliest]; exact if_neg hle,
          fun f hf => ?_⟩
        obtain rfl | hf := List.mem_cons.mp hf
        · omega
        · exact hleast f hf

/-! ### A posting that is taken (R106 to R110) -/

@[simp] theorem queueReports_request (bs : List ReportBody) (s : State) :
    (queueReports bs s).port.request = s.port.request :=
  foldl_keeps s (fun s => s.port.request) _ _ fun u b => (queueReport_replies b u).2.2

@[simp] theorem fireAtChannel_request (c : ChannelNo) (a : HeldAction) (k : CueKey) (r : Bool) (t : Option Time)
    (fired : List ReportBody) (s : State) : (fireAtChannel c a k r t fired s).port.request = s.port.request := by
  unfold fireAtChannel
  split <;> simp

theorem settleRecord_request (path : InstallPath) (origin : StationNo) (r : CueRecord) (s : State) :
    (settleRecord path origin r s).port.request = s.port.request := by
  unfold settleRecord
  split
  · unfold settleHeld
    split
    · split
      · simp [fireCue]
      · simp [placeHeld]
    · simp [fireCue]
  · rfl

theorem installLocal_request (own : StationNo) (records : List CueRecord) (s : State) :
    (installLocal own records s).1.port.request = s.port.request := by
  induction records generalizing s with
  | nil => rfl
  | cons r rest ih => exact (ih _).trans (settleRecord_request .localPort own r s)

theorem withdrawLocal_port (own : StationNo) (serials : List Byte) (s : State) :
    (withdrawLocal own serials s).1.port = s.port := by
  induction serials generalizing s with
  | nil => rfl
  | cons v rest ih =>
    refine (ih _).trans ?_
    unfold settleSerial
    split <;> simp

theorem settleSelf_request (body : PostBody) (s : State) : (settleSelf body s).1.port.request = s.port.request := by
  cases body with
  | cue records => exact installLocal_request _ records s
  | withdraw serials => exact congrArg LocalPort.request (withdrawLocal_port _ serials s)

/-- The own table after the self install or self withdrawal of a posting, where its target includes the station (R109). -/
def State.settled (s : State) (target : Target) (body : PostBody) : State × List Verdict :=
  if s.includesSelf target then settleSelf body s else (s, [])

/-- The self verdicts of a posting (R109). -/
def State.selfVerdicts (s : State) (target : Target) (body : PostBody) : Option (List Verdict) :=
  if s.includesSelf target then some (s.settled target body).2 else none

@[simp] theorem settled_frame (s : State) (target : Target) (body : PostBody) :
    (s.settled target body).1.post = s.post ∧ (s.settled target body).1.access = s.access
      ∧ (s.settled target body).1.sig = s.sig ∧ (s.settled target body).1.tb = s.tb
      ∧ (s.settled target body).1.port.request = s.port.request := by
  unfold State.settled
  split
  · simp [settleSelf_request]
  · simp

/-- The new posting takes its self verdicts (R109). -/
theorem takeSelf_joinList {u : State} {p : Posting} (hid : ∀ q ∈ u.post.list, q.id ≠ p.id) (hverdicts : p.selfVerdicts = none) :
    takeSelf p (joinList p u) = { ((joinList p u).settled p.target p.body).1 with
      post := { u.post with
        list := u.post.list ++ [{ p with selfVerdicts := (joinList p u).selfVerdicts p.target p.body }]
        nextId := p.id + 1 } } := by
  have hincludes : (joinList p u).includesSelf p.target = u.includesSelf p.target := rfl
  have hpost : (settleSelf p.body (joinList p u)).1.post = (joinList p u).post := by simp
  unfold takeSelf State.selfVerdicts State.settled
  split
  · next h =>
    have hlist : (u.post.list ++ [p]).map (fun q => if q.id == p.id then
          { p with selfVerdicts := some (settleSelf p.body (joinList p u)).2 } else q)
        = u.post.list ++ [{ p with selfVerdicts := some (settleSelf p.body (joinList p u)).2 }] := by
      simpa using map_id_middle (q := { p with selfVerdicts := some (settleSelf p.body (joinList p u)).2 }) hid
        (fun x hx => absurd hx (List.not_mem_nil (a := x)))
    simp only [setPosting, State.onPost, hpost]
    rw [← hlist]
    rfl
  · next h =>
    rw [← hverdicts]
    rfl

/-- A posting at the tail of the list that finishes (R122). -/
theorem finishPosting_last {u : State} {front : List Posting} {p : Posting} (o : PostOutcome) (hlist : u.post.list = front ++ [p])
    (hid : ∀ q ∈ front, q.id ≠ p.id) : finishPosting p.id o u = enqueue (.postingDone (p.doneReport o)) { u with
      post := { u.post with list := front }
      access := { u.access with flight := u.access.flight.map (Flight.losePosting p.id) } } := by
  have hfound : u.posting? p.id = some p := by
    rw [State.posting?, hlist, List.find?_append, List.find?_eq_none.mpr (by simpa using hid)]
    simp
  have herase : u.post.list.eraseP (fun q => q.id == p.id) = front := by
    rw [hlist]
    simpa [beq_eq_decide] using eraseP_id_middle (rest := []) hid
  simp only [finishPosting, hfound, State.onPost, State.onAccess, herase]

/-- No expected station of a new posting has given a verdict (R108). -/
theorem expectedSet_isGood {s : State} {target : Target} {n : Nat} (hn : n ≠ 0) {e : Expected} (he : e ∈ s.expectedSet target n) :
    e.isGood = false := by
  have hanswers : e.answers = List.replicate n .none ∨ e.answers = List.replicate n .gone := by
    unfold State.expectedSet at he
    split at he
    · split at he
      · cases he
      · rw [List.mem_singleton.mp he]
        split <;> simp
    all_goals
      obtain ⟨p, -, rfl⟩ := List.mem_map.mp he
      exact .inl rfl
  obtain h | h := hanswers <;> simp [Expected.isGood, h, hn]

/-- The POSTING_DONE of a posting that finishes as it is accepted (R110, R123). -/
theorem newPosting_doneReport (s : State) (id : Byte) (body : PostBody) (target : Target) (o : PostOutcome)
    (hsize : body.size ≠ 0) (verdicts : Option (List Verdict)) :
    ({ s.newPosting id body target with selfVerdicts := verdicts } : Posting).doneReport o = {
      id := id
      isWithdraw := ({ s.newPosting id body target with selfVerdicts := verdicts } : Posting).isWithdraw
      outcome := o
      sent := 0
      count := body.size
      selfVerdicts := verdicts
      goodCount := 0
      others := s.expectedSet target body.size } := by
  have hnone : (s.expectedSet target body.size).filter Expected.isGood = [] :=
    List.filter_eq_nil_iff.mpr fun e he => by simp [expectedSet_isGood hsize he]
  have hall : (s.expectedSet target body.size).filter (fun e => !e.isGood) = s.expectedSet target body.size :=
    List.filter_eq_self.mpr fun e he => by simp [expectedSet_isGood hsize he]
  have hserials : ({ s.newPosting id body target with selfVerdicts := verdicts } : Posting).serials.length = body.size := by
    cases body <;> simp [PostBody.serials, PostBody.size, State.newPosting]
  simp only [Posting.doneReport, hserials]
  simp only [State.newPosting, hnone, hall]
  rfl

/-- The list, the request and the record of the frame in flight when a new posting has gone from the list again. -/
def State.leftAgain (u v : State) : State :=
  { v with
    post := { u.post with nextId := u.freeId + 1 }
    access := { u.access with flight := u.access.flight.map (Flight.losePosting u.freeId) } }

/-- What a posting that is taken comes to (R110): it finishes in the acceptance event, or stands at the tail of the list. -/
theorem takePosting_cases {u : State} (target : Target) (body : PostBody) (hlist : u.post.list.length < 8) :
    let p := u.newPosting u.freeId body target
    let self := (joinList p u).settled target body
    let taken : Posting := { p with selfVerdicts := (joinList p u).selfVerdicts target body }
    (target = .one u.sig.own →
      takePosting target body u = enqueue (.postingDone (taken.doneReport .complete)) (u.leftAgain self.1))
    ∧ (target ≠ .one u.sig.own → u.alreadyPassed p.deadline = true →
      takePosting target body u = enqueue (.postingDone (taken.doneReport .expired)) (u.leftAgain self.1))
    ∧ (target ≠ .one u.sig.own → u.alreadyPassed p.deadline = false →
      takePosting target body u = { self.1 with
        post := { u.post with list := u.post.list ++ [taken], nextId := u.freeId + 1 } }) := by
  intro p self taken
  have hid : ∀ q ∈ u.post.list, q.id ≠ p.id := freeId_not_mem u hlist
  have htaken := takeSelf_joinList (u := u) (p := p) hid rfl
  have hfinish : ∀ o, finishPosting p.id o (takeSelf p (joinList p u)) = enqueue (.postingDone (taken.doneReport o)) (u.leftAgain self.1) := by
    intro o
    rw [htaken]
    refine (finishPosting_last (front := u.post.list) (p := taken) o rfl hid).trans ?_
    have haccess : self.1.access = u.access := by simp [self]
    unfold State.leftAgain
    rw [← haccess]
    rfl
  have hown : (takeSelf p (joinList p u)).sig.own = u.sig.own := by simp
  have hpassed : (takeSelf p (joinList p u)).alreadyPassed p.deadline = u.alreadyPassed p.deadline := by
    simp [State.alreadyPassed, State.shared]
  have hsettle : takePosting target body u = settlePosting p (takeSelf p (joinList p u)) := rfl
  rw [hsettle, settlePosting, hown, hpassed]
  refine ⟨fun hone => ?_, fun hother hp => ?_, fun hother hp => ?_⟩
  · exact (if_pos hone).trans (hfinish .complete)
  · exact (if_neg hother).trans ((if_pos hp).trans (hfinish .expired))
  · exact (if_neg hother).trans ((if_neg (by simp [hp])).trans htaken)

theorem withSerials_specs {serials : List Byte} {specs : List CueSpec} (h : serials.length = specs.length) :
    (withSerials serials specs).map CueRecord.spec = specs := by
  induction specs generalizing serials with
  | nil => cases serials <;> rfl
  | cons r rest ih =>
    cases serials with
    | nil => cases h
    | cons v serials => exact congrArg (r :: ·) (ih (Nat.succ.inj h))

/-- A request whose acceptance kept the buffer is answered. -/
theorem answer_eq_replied {r : Reply} {t : State} {request : List Byte} (h : t.port.request = request) :
    answer r t = t.replied request r.status r.body := by
  rw [← h]
  rfl

/-- Settles O15: an accepted POST. -/
theorem postIsAccepted : Obligations.PostIsAccepted := by
  refine ⟨?_, fun own u => ⟨rfl, fun r rest => rfl⟩, fun used n counter h => ?_, fun s hlist => ?_, fun now => ⟨rfl, earliest_spec now⟩⟩
  · intro s body target specs hbody hactive hlist hroom hgood taken records deadline posting joined self verdicts finished ends
    have hnone : (gatherRequest 6 body s).postRefusal = none := postRefusal_eq_none (s := s) hactive hlist hroom
    have hrecords := recordFault_none specs 1 hgood
    obtain ⟨hlow, -, -, -⟩ := (postOf_iff body target specs).mp hbody
    let u : State := (gatherRequest 6 body s).onPost fun p => { p with nextSerial := taken.2 }
    have hexec : exec (.post body) s = .next (answer (acceptedReply s.freeId taken.1) (takePosting target (.cue records) u)) := by
      rw [exec_post_of hbody]
      simp only [takePost, hnone, hrecords]
      rfl
    have htaken : taken.1.length = specs.length := takeSerials_length _ _ _
    have hspecs : records.map CueRecord.spec = specs := withSerials_specs htaken
    have hsize : records.length = specs.length := by rw [← hspecs, List.length_map]
    have hposting : u.newPosting u.freeId (.cue records) target = posting := by
      have hfires : records.filterMap (fun r => r.spec.fire) = specs.filterMap CueSpec.fire := by
        rw [← hspecs, List.filterMap_map]
        rfl
      have hdeadline : u.deadlineOf (.cue records) = deadline := congrArg (earliest s.shared) hfires
      have hexpected : u.expectedSet target (PostBody.cue records).size = s.expectedSet target specs.length :=
        congrArg (s.expectedSet target) hsize
      rw [State.newPosting, hdeadline, hexpected]
      rfl
    obtain ⟨hone, hpassed, hwaits⟩ := takePosting_cases (u := u) target (.cue records) hlist
    have hdone := fun o => newPosting_doneReport u u.freeId (.cue records) target o (by simp only [PostBody.size]; omega) verdicts
    have hsettled : (joinList (u.newPosting u.freeId (.cue records) target) u).settled target (.cue records) = self := by
      rw [hposting]
      rfl
    have hverdicts : (joinList (u.newPosting u.freeId (.cue records) target) u).selfVerdicts target (.cue records) = verdicts := by
      rw [hposting]
      rfl
    have hfinished : ∀ o, enqueue (.postingDone (({ u.newPosting u.freeId (.cue records) target with
        selfVerdicts := verdicts } : Posting).doneReport o)) (u.leftAgain self.1) = finished o := by
      intro o
      rw [hdone]
      have hsizes : (PostBody.cue records).size = specs.length := hsize
      rw [hsizes]
      rfl
    have hrequest : self.1.port.request = wholeRequest 6 body := by
      rw [← hsettled]
      exact (settled_frame _ target (.cue records)).2.2.2.2
    rw [hsettled, hverdicts] at hone hpassed hwaits
    have hends : ∀ t, takePosting target (.cue records) u = t → t.port.request = wholeRequest 6 body → ends t := by
      intro t ht hreq
      refine hexec.trans (congrArg Host.Outcome.next ?_)
      rw [ht]
      exact answer_eq_replied hreq
    refine ⟨fun h => hends _ ((hone h).trans (hfinished .complete)) hrequest, fun h d hd hp => ?_, fun h hd => ?_⟩
    · have hp : u.alreadyPassed (u.newPosting u.freeId (.cue records) target).deadline = true := by
        rw [hposting]
        have hdeadline : posting.deadline = some d := hd
        simp only [State.alreadyPassed, hdeadline]
        exact hp
      exact hends _ ((hpassed h hp).trans (hfinished .expired)) hrequest
    · have hp : u.alreadyPassed (u.newPosting u.freeId (.cue records) target).deadline = false := by
        rw [hposting]
        have hdeadline : posting.deadline = deadline := rfl
        unfold State.alreadyPassed
        rw [hdeadline]
        cases hd' : deadline with
        | none => rfl
        | some d => exact hd d hd'
      have hlast := hwaits h hp
      rw [hposting] at hlast
      exact hends _ hlast hrequest
  · obtain ⟨hnodup, hfresh⟩ := takeSerials_fresh n used counter h
    refine ⟨takeSerials_length n used counter, hnodup, hfresh, fun hn hcounter => ?_, fun front v back hsplit => ?_,
      takeSerials_counter n used counter⟩
    · cases n with
      | zero => omega
      | succ n => exact congrArg some (nextFree_self (by omega) hcounter)
    · intro offered k hk
      exact takeSerials_first n used counter h hsplit hk
  · have hlength : (s.post.list.map Posting.id).length < 256 := by
      rw [List.length_map]
      omega
    exact ⟨nextFree_not_mem _ _ hlength, nextFree_self hlength, fun k hk => nextFree_first hlength hk⟩

end Sys2Proof.Machine

namespace Sys2Proof.Machine

/-- Settles O16: an accepted WITHDRAW. -/
theorem withdrawIsAccepted : Obligations.WithdrawIsAccepted := by
  refine ⟨?_, fun own u => ⟨rfl, fun v rest => rfl⟩⟩
  intro s body target serials hbody hactive hlist hroom hnodup hfresh posting joined self verdicts ends
  have hnone : (gatherRequest 7 body s).postRefusal = none := postRefusal_eq_none (s := s) hactive hlist hroom
  have hserials : serialFault (gatherRequest 7 body s).carriedSerials 1 serials = none :=
    serialFault_none serials _ 1 hnodup hfresh
  obtain ⟨hlow, -, -⟩ := (withdrawOf_iff body target serials).mp hbody
  have hexec : exec (.withdraw body) s
      = .next (answer (acceptedReply s.freeId serials) (takePosting target (.withdraw serials) (gatherRequest 7 body s))) := by
    rw [exec_withdraw_of hbody]
    simp only [takeWithdraw, hnone, hserials]
    rfl
  have hends : ∀ t, takePosting target (.withdraw serials) (gatherRequest 7 body s) = t →
      t.port.request = wholeRequest 7 body → ends t := by
    intro t ht hreq
    refine hexec.trans (congrArg Host.Outcome.next ?_)
    rw [ht]
    exact answer_eq_replied hreq
  have hrequest : self.1.port.request = wholeRequest 7 body := (settled_frame joined target (.withdraw serials)).2.2.2.2
  obtain ⟨hone, -, hwaits⟩ := takePosting_cases (u := gatherRequest 7 body s) target (.withdraw serials) hlist
  refine ⟨fun h => ?_, fun h => hends _ (hwaits h rfl) hrequest⟩
  have hdone := newPosting_doneReport (gatherRequest 7 body s) (gatherRequest 7 body s).freeId (.withdraw serials) target .complete
    (by simp only [PostBody.size]; omega) verdicts
  have hexpected : (gatherRequest 7 body s).expectedSet target (PostBody.withdraw serials).size = [] := by
    rw [h]
    exact if_pos rfl
  rw [hexpected] at hdone
  refine hends _ ((hone h).trans ?_) hrequest
  exact congrArg (fun d => enqueue (.postingDone d) ((gatherRequest 7 body s).leftAgain self.1)) hdone

end Sys2Proof.Machine

namespace Sys2Proof.Machine

/-! ### Receipts and absences at the postings (R116 to R118) -/

theorem answered_iff (p : Posting) : p.answered = true ↔ p.allAnswered := by
  simp only [Posting.answered, Posting.allAnswered, List.all_eq_true, bne_iff_ne]
  exact forall₂_congr fun e _ => ⟨fun h hnone => h _ hnone rfl, fun h a ha heq => h (heq ▸ ha)⟩

theorem expects_iff (p : Posting) (station : StationNo) :
    p.expects station = true ↔ ∃ e ∈ p.expected, e.station = station := by
  simp [Posting.expects]

/-- The verdicts of a posting's kind (R116). -/
theorem takesVerdict_iff (p : Posting) (v : Verdict) : p.takesVerdict v = true ↔ match p.body with
    | .cue _ => v ≠ .tooLate ∧ v ≠ .unknown
    | .withdraw _ => v = .withdrawn ∨ v = .tooLate ∨ v = .unknown := by
  unfold Posting.takesVerdict
  cases p.body <;> cases v <;> simp

/-- A receipt that no posting carries is ignored (R116). -/
theorem takeReceipt_ignored {s : State} {station : StationNo} {r : Receipt}
    (h : r.key.origin ≠ s.sig.own ∨ ∀ p ∈ s.post.list, r.key.serial ∉ p.serials) : takeReceipt station r s = s := by
  unfold takeReceipt
  by_cases horigin : r.key.origin = s.sig.own
  · have hnone := h.resolve_left (not_not.mpr horigin)
    have hfind : s.post.list.find? (fun p => p.serials.contains r.key.serial) = none :=
      List.find?_eq_none.mpr fun p hp => by simpa using hnone p hp
    rw [if_neg (not_not.mpr horigin), hfind]
  · rw [if_pos horigin]

/-- A receipt at the posting that carries its serial (R116). -/
theorem takeReceipt_carried {s : State} {station : StationNo} {r : Receipt} {p : Posting} (hp : p ∈ s.post.list)
    (horigin : r.key.origin = s.sig.own) (hserial : r.key.serial ∈ p.serials)
    (hserials : (s.post.list.flatMap Posting.serials).Nodup) : takeReceipt station r s =
      if p.expects station = true ∧ p.takesVerdict r.verdict = true then
        completionTest p.id (setPosting (p.storeVerdict station r.key.serial r.verdict) s)
      else s := by
  unfold takeReceipt
  rw [if_neg (not_not.mpr horigin), find_carrier_of_mem _ p r.key.serial hp hserial hserials]

/-- Reports of finished postings behind what the queue held (R107). -/
theorem absentNotice_bodies (station : StationNo) (s : State) (hids : (s.post.list.map Posting.id).Nodup) :
    (absentNotice station s).port.queue.map Report.body
      = s.port.queue.map Report.body ++ goneReports station s.post.list := by
  rw [absentNotice_eq station s hids, enqueueAll_bodies]

/-- Settles O18: receipts and absences at the postings they concern. -/
theorem receiptsAndAbsencesAnswerPostings : Obligations.ReceiptsAndAbsencesAnswerPostings := by
  refine ⟨fun s station r hids hserials => ⟨takeReceipt_ignored, ?_⟩, ?_⟩
  · intro p hp horigin hserial fits stored
    have htaken := takeReceipt_carried (station := station) hp horigin hserial hserials
    have hstored : p.storeVerdict station r.key.serial r.verdict = stored := by
      simp [Posting.storeVerdict, stored]
    refine ⟨fun h => ?_, fun hexpects hfits => ?_⟩
    · rw [htaken, if_neg]
      rintro ⟨hexpects, htakes⟩
      obtain hnot | hnot := h
      · obtain ⟨e, he, hstation⟩ := (expects_iff p station).mp hexpects
        exact hnot e he hstation
      · exact hnot ((takesVerdict_iff p r.verdict).mp htakes)
    · rw [htaken, if_pos ⟨(expects_iff p station).mpr hexpects, (takesVerdict_iff p r.verdict).mpr hfits⟩, hstored,
        completionTest_setPosting s p stored hids hp rfl]
      refine ⟨fun hnot => if_neg ?_, fun hsent hanswered => if_pos ⟨hsent, (answered_iff stored).mpr hanswered⟩⟩
      exact fun ⟨hsent, hanswered⟩ => hnot ⟨hsent, (answered_iff stored).mp hanswered⟩
  · intro s station hids gone ends done t
    have hgone : Posting.markGone station = gone := by
      funext p
      simp [Posting.markGone, gone]
    have hends : Posting.endsAt station = ends := by
      funext p
      simp only [Posting.endsAt, hgone, ends, Posting.answered]
      congr 2
      funext e
      rw [Bool.eq_iff_iff]
      simp only [List.all_eq_true, bne_iff_ne, Bool.not_eq_true', List.contains_eq_mem, decide_eq_false_iff_not]
      exact ⟨fun h hnone => h _ hnone rfl, fun h a ha heq => h (heq ▸ ha)⟩
    have ht := absentNotice_eq station s hids
    have hlist := absentNotice_list station s hids
    have hreports : goneReports station s.post.list = done.map fun p => .postingDone ((gone p).doneReport .complete) := by
      rw [goneReports, hends, hgone]
    have hgoneList : goneList station s.post.list = (s.post.list.filter fun p => !ends p).map gone := by
      rw [goneList, hends, hgone]
    rw [enqueueAll_frame] at ht
    have hpost := congrArg State.post ht
    have haccess := congrArg State.access ht
    refine ⟨hpost.trans (by rw [hgoneList]), (absentNotice_bodies station s hids).trans (by rw [hreports]), ?_, ?_⟩
    · refine haccess.trans ?_
      rw [hends]
      rfl
    · change absentNotice station s = { s with
        post := (absentNotice station s).post
        port := (absentNotice station s).port
        access := (absentNotice station s).access }
      rw [hpost, haccess, congrArg State.port ht]
      exact ht

/-! ### Response windows and deadlines (R111, R114) -/

/-- A posting of the list that finishes (R122). -/
theorem finishPosting_found {s : State} {p : Posting} (o : PostOutcome) (h : s.posting? p.id = some p) :
    finishPosting p.id o s = enqueue (.postingDone (p.doneReport o)) { s with
      post := { s.post with list := s.post.list.eraseP fun q => q.id = p.id }
      access := { s.access with flight := s.access.flight.map (Flight.losePosting p.id) } } := by
  simp only [finishPosting, h, State.onPost, State.onAccess, beq_eq_decide]

theorem inTransmission_iff (s : State) (id : Byte) : s.inTransmission id = true ↔
    ∃ f w, s.access.flight = some f ∧ f.kind = .posting id w ∧ f.lost = false := by
  unfold State.inTransmission
  cases hflight : s.access.flight with
  | none => simp
  | some f =>
    simp only [Bool.or_eq_true, Bool.and_eq_true, beq_iff_eq, Bool.not_eq_true', Option.some.injEq]
    constructor
    · rintro (⟨hkind, hlost⟩ | ⟨hkind, hlost⟩) <;> exact ⟨f, _, rfl, hkind, hlost⟩
    · rintro ⟨g, w, rfl, hkind, hlost⟩
      cases w
      · exact .inl ⟨hkind, hlost⟩
      · exact .inr ⟨hkind, hlost⟩

/-- A frame in flight that is not this posting's, or has lost it, has nothing to lose (log 25). -/
theorem losePosting_of_not_inTransmission {s : State} {id : Byte} (h : s.inTransmission id = false) :
    s.access.flight.map (Flight.losePosting id) = s.access.flight := by
  cases hflight : s.access.flight with
  | none => rfl
  | some f =>
    have hlost : ∀ w, f.kind = .posting id w → f.lost = true := by
      intro w hkind
      by_contra hnot
      have := (inTransmission_iff s id).mpr ⟨f, w, hflight, hkind, by simpa using hnot⟩
      simp [h] at this
    rw [Option.map_some]
    congr 1
    unfold Flight.losePosting
    cases hkind : f.kind with
    | posting i w =>
      by_cases hi : i = id
      · have := hlost w (hi ▸ hkind)
        cases f
        simp_all
      · simp [hi]
    | leavingBeat | dueBeat | mark | receiptsBeat => rfl

theorem mayResend_iff (s : State) (p : Posting) : s.mayResend p = true ↔
    p.sent < 4 ∧ ∀ d, p.deadline = some d → 1 ≤ ahead d s.shared ∧ ahead d s.shared ≤ 2 ^ 36 := by
  unfold State.mayResend
  cases p.deadline <;>
    simp only [isAhead, Bool.and_eq_true, decide_eq_true_eq, Option.some.injEq, forall_eq', reduceCtorEq, false_imp_iff,
      implies_true] <;> rfl

/-- Settles O19: an expired window and a passed deadline. -/
theorem responseWindowsAndDeadlines : Obligations.ResponseWindowsAndDeadlines := by
  refine ⟨fun s p e hfound hstate hwindow hreached => ?_, fun s p d hfound hstate hdeadline hpassed hjumped hslew => ?_⟩
  · have hexpired : s.windowExpired p = true := by
      simp only [State.windowExpired, hstate, hwindow]
      exact decide_eq_true hreached
    have hexpire : expireWindow p.id s = if s.mayResend p then setPosting { p with state := .waiting, windowEnd := none } s
        else finishPosting p.id .incomplete s := by
      simp [expireWindow, hfound, hexpired]
    rw [exec_eq]
    refine ⟨fun hresend => congrArg Host.Outcome.next (hexpire.trans ?_), fun hends => congrArg Host.Outcome.next (hexpire.trans ?_)⟩
    · rw [if_pos ((mayResend_iff s p).mpr hresend)]
      simp only [setPosting, State.onPost, beq_iff_eq]
    · rw [if_neg fun h => hends ((mayResend_iff s p).mp h), finishPosting_found _ hfound]
  · rw [exec_eq]
    have hdue : s.deadlinePassed p = !s.inTransmission p.id := by
      have : isPassed d s.shared = true := decide_eq_true hpassed
      simp [State.deadlinePassed, hstate, hdeadline, this, hjumped, hslew]
    have hpass : passDeadline p.id s = if s.inTransmission p.id then s
        else finishPosting p.id (if p.sent = 0 then .expired else .incomplete) s := by
      simp [passDeadline, hfound, hdue]
    refine ⟨fun hlost => congrArg Host.Outcome.next (hpass.trans ?_), fun f w hflight hkind hnot =>
      congrArg Host.Outcome.next (hpass.trans (if_pos ((inTransmission_iff s p.id).mpr ⟨f, w, hflight, hkind, hnot⟩)))⟩
    have hout : s.inTransmission p.id = false := by
      by_contra hin
      obtain ⟨f, w, hflight, hkind, hnot⟩ := (inTransmission_iff s p.id).mp (by simpa using hin)
      simp [hlost f w hflight hkind] at hnot
    rw [hout, if_neg (by simp), finishPosting_found _ hfound, losePosting_of_not_inTransmission hout]

end Sys2Proof.Machine

namespace Sys2Proof.Machine

/-! ### Reports and attention (R211, R216 to R218) -/

theorem urgent_iff (b : ReportBody) : bitOf b.urgent = if b.kindCode = 8 ∨ b.kindCode = 9 then 1 else 0 := by
  cases b <;> rfl

/-- Settles O20: the admission of a report and the linger timer. -/
theorem reportsAndTheLingerTimer : Obligations.ReportsAndTheLingerTimer := by
  intro s
  refine ⟨fun b hroom => ?_, fun b hfull => ?_, fun c since hc hsince hover => ?_⟩
  · rw [queueReport, if_pos (show s.reportSum < reportCapacity from hroom), enqueue, urgent_iff]
    cases hconfig : s.control.config <;> rfl
  · have hnot : ¬ s.reportSum < reportCapacity := Nat.not_lt.mpr hfull
    have hlost : satInc s.port.lost = if s.port.lost = 255 then 255 else s.port.lost + 1 := by
      unfold satInc
      split
      · next h => rw [h]; rfl
      · next h =>
        have h : ¬ s.port.lost = 255 := h
        rw [if_neg h]
    rw [queueReport, if_neg hnot, ← hlost]
    rfl
  · have hlinger : s.lingerOver = true := by
      simp only [State.lingerOver, hc, hsince]
      exact decide_eq_true hover
    rw [exec_eq]
    exact congrArg Host.Outcome.next (if_pos hlinger)

theorem lattn_iff (s : State) : s.lattn = true ↔
    s.threshold ≤ s.port.queue.length ∨ 0 < s.port.urgent ∨ s.port.lingerFlag = true := by
  simp [State.lattn, or_assoc]

/-- With nothing queued, nothing urgent and no flag the station does not ask for attention. -/
theorem lattn_of_empty {t : State} (hthreshold : 1 ≤ t.threshold) (hqueue : t.port.queue = []) (hurgent : t.port.urgent = 0)
    (hflag : t.port.lingerFlag = false) : t.lattn = false := by
  rw [← Bool.not_eq_true, lattn_iff]
  simp [hqueue, hurgent, hflag]
  omega

theorem exec_fetch (s : State) : exec (.fetch []) s = .next (takeFetch (gatherRequest 8 [] s)) := exec_eq s (.fetch [])

/-- What LTX shows of the frame being sent (R182). -/
theorem ltx_sending {s : State} {f : Flight} {chars : List Byte} (place : Nat) (hdriving : s.sig.driving = true)
    (hflight : s.access.flight = some f) (hcopy : s.frames.copy = some chars) :
    s.ltx place = match chars[(4 * elapsed s.now f.start + place) / s.samplesPerBit / 10]? with
      | some c => charBit c ((4 * elapsed s.now f.start + place) / s.samplesPerBit % 10)
      | none => true := by
  simp only [State.ltx, hdriving, hflight, hcopy] <;> rfl

theorem ticksPerBit_pos (rate : BitVec 2) : 0 < ticksPerBit rate := by
  revert rate
  decide

/-- Settles O21: the output pins, each by its definition. -/
theorem outputPinsShowTheState : Obligations.OutputPinsShowTheState := by
  intro s
  refine ⟨fun hthreshold => ⟨?_, fun stn rate t ht => ?_, fun t ht => ?_, fun t ht hqueue => ?_⟩, fun c => ?_, rfl, fun hquiet place => ?_,
    fun f chars place hlde hflight hcopy => ?_⟩
  · rw [lattn_iff]
    cases hconfig : s.control.config <;> simp [State.threshold, hconfig]
  · rw [exec_reset] at ht
    rw [← Host.Outcome.next.inj ht]
    exact lattn_of_empty (Nat.le_refl 1) rfl rfl rfl
  · rw [exec_eq] at ht
    rw [← Host.Outcome.next.inj ht]
    refine lattn_of_empty ?_ rfl rfl rfl
    change 1 ≤ match s.control.config with | some c => c.threshold.toNat | none => 1
    cases hconfig : s.control.config with
    | none => exact Nat.le_refl 1
    | some c => exact hthreshold c hconfig
  · rw [exec_fetch] at ht
    rw [← Host.Outcome.next.inj ht] at hqueue ⊢
    refine lattn_of_empty ?_ hqueue ?_ rfl
    · change 1 ≤ match s.control.config with | some c => c.threshold.toNat | none => 1
      cases hconfig : s.control.config with
      | none => exact Nat.le_refl 1
      | some c => exact hthreshold c hconfig
    · have hempty : s.port.queue.drop s.fetched = [] := hqueue
      change (if (s.port.queue.drop s.fetched).isEmpty then 0 else _) = 0
      rw [hempty]
      rfl
  · refine ⟨fun h => ?_, fun i h => ?_, fun o h => ?_⟩ <;> simp [State.pinDrive, h]
  · unfold State.ltx
    obtain h | h | h := hquiet
    · rw [show s.sig.driving = false from h]
    · rw [h]
      cases s.sig.driving <;> rfl
    · rw [h]
      cases s.sig.driving <;> cases s.access.flight <;> rfl
  · intro q now
    have hq : 0 < q := Nat.mul_pos (by omega) (ticksPerBit_pos _)
    have hshown := ltx_sending place hlde hflight hcopy
    have hbit : (4 * elapsed s.now f.start + place) / s.samplesPerBit = now / q := rfl
    rw [hbit] at hshown
    refine ⟨fun n c j hc hj hfrom hto => ?_, fun hafter => ?_⟩
    · have hplace : now / q = 10 * n + j := Nat.div_eq_of_lt_le (by omega) (by omega)
      have hchar : (10 * n + j) / 10 = n := by omega
      have hin : (10 * n + j) % 10 = j := by omega
      rw [hshown, hplace, hchar, hin, hc]
      unfold charBit
      by_cases h9 : j = 9
      · simp [h9]
      · have : j ≤ 8 := by omega
        simp [h9, this]
    · have hplace : 10 * chars.length ≤ now / q := (Nat.le_div_iff_mul_le hq).mpr hafter
      have hnone : chars[now / q / 10]? = none := List.getElem?_eq_none (by omega)
      rw [hshown, hnone]

/-! ### FETCH (R214) -/

/-- How far a FETCH reaches (R214). -/
theorem fetchCount_spec (n used : Nat) (l : List Report) (h : used ≤ 240) :
    fetchCount n used l ≤ n ∧ fetchCount n used l ≤ l.length
    ∧ used + ((l.take (fetchCount n used l)).map Report.size).sum ≤ 240
    ∧ (fetchCount n used l = n ∨ fetchCount n used l = l.length
      ∨ 240 < used + ((l.take (fetchCount n used l + 1)).map Report.size).sum) := by
  induction l generalizing n used with
  | nil => cases n <;> simp [fetchCount, h]
  | cons r rest ih =>
    cases n with
    | zero => simp [fetchCount, h]
    | succ n =>
      rw [fetchCount]
      split
      · next hfits =>
        obtain ⟨h1, h2, h3, h4⟩ := ih n (used + r.size) hfits
        simp only [Nat.add_comm 1, List.take_succ_cons, List.map_cons, List.sum_cons, List.length_cons]
        omega
      · simp only [List.take_succ_cons, List.take_zero, List.map_cons, List.map_nil, List.sum_cons, List.sum_nil]
        omega

theorem packCodes_eq (codes : List Nat) : packCodes codes = packedCodes codes := by
  fun_induction packCodes codes with
  | case1 => rfl
  | case2 a => simp [packedCodes]
  | case3 a b rest ih =>
    have hlength : ((a :: b :: rest).length + 1) / 2 = (rest.length + 1) / 2 + 1 := by
      simp only [List.length_cons]
      omega
    rw [ih, packedCodes, packedCodes, hlength, List.range_succ_eq_map, List.map_cons, List.map_map]
    rfl

theorem setWidth_eq_byte (p : StationNo) : p.setWidth 8 = byte p.toNat := by
  revert p
  decide

theorem bitOf_eq_toNat (b : Bool) : bitOf b = b.toNat := by cases b <;> rfl

theorem markBytes_eq_chars (m : MarkRecord) : m.bytes = m.chars := by
  rw [MarkRecord.bytes, bitOf_eq_toNat, MarkRecord.chars]

/-- The kind and the body of a report (11.5). -/
theorem laidOut_eq (b : ReportBody) : b.laidOut = (b.kindCode, b.bytes) := by
  cases b with
  | localMark m => exact congrArg (Prod.mk 1) (markBytes_eq_chars m).symm
  | peerMark p m loss => simp [ReportBody.laidOut, ReportBody.kindCode, ReportBody.bytes, markBytes_eq_chars, setWidth_eq_byte]
  | cueFired f =>
    simp [ReportBody.laidOut, ReportBody.kindCode, ReportBody.bytes, FiredReport.bytes, keyBytes, timeBytes, setWidth_eq_byte,
      bitOf_eq_toNat, beq_eq_decide]
  | cueCut x =>
    cases hcutting : x.cutting <;>
      simp [ReportBody.laidOut, ReportBody.kindCode, ReportBody.bytes, CutReport.bytes, keyBytes, setWidth_eq_byte, bitOf_eq_toNat,
        hcutting]
  | postingDone d =>
    cases hverdicts : d.selfVerdicts <;>
      simp [ReportBody.laidOut, ReportBody.kindCode, ReportBody.bytes, DoneReport.bytes, packCodes_eq, setWidth_eq_byte,
        bitOf_eq_toNat, hverdicts, packedCodes]
  | rosterChange p old new cause => simp [ReportBody.laidOut, ReportBody.kindCode, ReportBody.bytes, setWidth_eq_byte]
  | lineMismatch p heard own =>
    simp only [ReportBody.laidOut, ReportBody.kindCode, ReportBody.bytes, setWidth_eq_byte]
    rfl
  | timebaseChange | lineHeld | lineTrouble | lineTwin | stationState => rfl

theorem bytesOf_fields (n : Nat) : bytesOf 2 n = [byte (n / 2 ^ 8), byte n]
    ∧ bytesOf 3 n = [byte (n / 2 ^ 16), byte (n / 2 ^ 8), byte n]
    ∧ bytesOf 6 n = [byte (n / 2 ^ 40), byte (n / 2 ^ 32), byte (n / 2 ^ 24), byte (n / 2 ^ 16), byte (n / 2 ^ 8), byte n] := by
  simp [bytesOf]

/-- Settles O22: how many reports a FETCH takes, and the layouts of 11.5. -/
theorem fetchTakesFromTheHead : Obligations.FetchTakesFromTheHead := by
  refine ⟨fun s => ?_, fun r => ?_, rfl, rfl, rfl, rfl, rfl, rfl, rfl, rfl, fun v => rfl, bytesOf_fields, fun x hlow hhigh => ?_⟩
  · obtain ⟨h1, h2, h3, h4⟩ := fetchCount_spec 4 0 s.port.queue (by omega)
    refine ⟨s.fetched, h1, h2, by simpa [State.fetched] using h3, by simpa [State.fetched] using h4, ?_⟩
    have hlength : (s.port.queue.take s.fetched).length = s.fetched := List.length_take_of_le h2
    rw [exec_fetch]
    refine congrArg Host.Outcome.next ?_
    have hleft : (s.port.queue.drop s.fetched).isEmpty = true ↔ s.port.queue.drop s.fetched = [] := List.isEmpty_iff
    have hstart : ((s.port.queue.drop s.fetched).isEmpty || s.control.config.isNone) = true ↔
        s.port.queue.drop s.fetched = [] ∨ s.control.config = none := by simp
    have htaken : takeFetch (gatherRequest 8 [] s) = { s with port := { s.port with
        request := [8, 0]
        holder := { status := .ok, body := fetchBody (s.port.queue.take s.fetched) }
        exchange := none
        queue := s.port.queue.drop s.fetched
        urgent := if (s.port.queue.drop s.fetched).isEmpty then 0 else s.port.urgent - urgentIn (s.port.queue.take s.fetched)
        lingerFlag := false
        lingerStart := if (s.port.queue.drop s.fetched).isEmpty || s.control.config.isNone then none
          else some s.tb.localTime } } := rfl
    rw [htaken]
    simp only [hleft, hstart, fetchBody, hlength, urgentIn]
  · intro body
    have hbody : body = r.body.bytes := congrArg Prod.snd (laidOut_eq r.body)
    have hkind : r.body.laidOut.1 = r.body.kindCode := congrArg Prod.fst (laidOut_eq r.body)
    rw [hkind, hbody]
    refine ⟨rfl, ?_⟩
    simp [Report.size, Report.bytes]
    omega
  · exact if_pos ⟨by simpa using hlow, by simpa using hhigh⟩

end Sys2Proof.Machine

namespace Sys2Proof.Machine

/-! ### The requests answered from figures (R24, R100, R215) -/

theorem bytesOf_getElem? {n k : Nat} (v : Nat) (h : k < n) : (bytesOf n v)[k]? = some (byte (v / 256 ^ (n - 1 - k))) := by
  induction n generalizing k with
  | zero => cases h
  | succ n ih =>
    cases k with
    | zero => rfl
    | succ k =>
      rw [bytesOf, List.getElem?_cons_succ, ih (by omega)]
      congr 4
      omega

theorem groups_eq (s : State) : s.groups = (s.control.config.map ConfigRecord.groups).getD 0 := by
  unfold State.groups
  cases s.control.config <;> rfl

theorem rosterBytes_self {s : State} {p : StationNo} (h : s.entry p = .self) : s.rosterBytes p =
    [byte p.toNat, (s.control.config.map ConfigRecord.groups).getD 0, byte s.tb.tbState.code, 0, 0, 0, 0] := by
  rw [← groups_eq, State.rosterBytes, h]
  rfl

theorem rosterBytes_peer {s : State} {p : StationNo} {e : Peer} (h : s.peer? p = some e) : s.rosterBytes p =
    if e.state = .absent then []
    else [byte (p.toNat + 32 * e.state.code + 128 * bitOf e.mismatch), e.groups, byte e.reportedCode]
      ++ bytesOf 2 (s.beatAge e) ++ bytesOf 2 e.missed.toNat := by
  have hentry : s.entry p = .peer e := by
    unfold State.peer? at h
    split at h <;> simp_all
  rw [State.rosterBytes, hentry]

/-- An entry takes seven characters, an ABSENT peer none (R100). -/
theorem rosterBytes_length (s : State) (p : StationNo) : (s.rosterBytes p).length = if s.isAbsent p then 0 else 7 := by
  cases h : s.peer? p with
  | none =>
    have hself := (peer?_eq_none_iff s p).mp h
    simp [rosterBytes_self hself, State.isAbsent, h]
  | some e =>
    rw [rosterBytes_peer h]
    by_cases habsent : e.state = .absent <;> simp [State.isAbsent, h, habsent]

theorem length_flatMap_rosterBytes (s : State) (l : List StationNo) :
    (l.flatMap s.rosterBytes).length = 7 * (l.filter fun p => !s.isAbsent p).length := by
  induction l with
  | nil => rfl
  | cons p l ih =>
    rw [List.flatMap_cons, List.length_append, ih, rosterBytes_length, List.filter_cons]
    cases s.isAbsent p
    · simp only [Bool.not_false, if_true, List.length_cons, Bool.false_eq_true, if_false]
      omega
    · simp

/-- Blocks that follow one another from a place on, each of its length. -/
def Consecutive : Nat → List (Nat × Nat × List Byte) → Prop
  | _, [] => True
  | start, (place, length, bytes) :: rest => place = start ∧ bytes.length = length ∧ Consecutive (start + length) rest

/-- Each of the blocks that follow one another is read back at its place. -/
theorem Consecutive.read {front : List Byte} {blocks : List (Nat × Nat × List Byte)} (h : Consecutive front.length blocks)
    {block : Nat × Nat × List Byte} (hblock : block ∈ blocks) : block.2.2.length = block.2.1
      ∧ ((front ++ blocks.flatMap fun b => b.2.2).drop block.1).take block.2.1 = block.2.2 := by
  induction blocks generalizing front with
  | nil => cases hblock
  | cons first rest ih =>
    obtain ⟨place, length, bytes⟩ := first
    obtain ⟨rfl, rfl, hrest⟩ := h
    obtain rfl | hblock := List.mem_cons.mp hblock
    · refine ⟨rfl, ?_⟩
      rw [List.drop_left, List.flatMap_cons, List.take_left]
    · rw [← List.length_append] at hrest
      obtain ⟨hlength, hread⟩ := ih hrest hblock
      rw [List.flatMap_cons, ← List.append_assoc]
      exact ⟨hlength, hread⟩

theorem shown_eq (c : Channel) : c.shown = c.bytes := by
  cases c with
  | off => rfl
  | output o =>
    simp only [Channel.shown, Channel.bytes, bitOf_eq_toNat, runKeyBytes, timeBytes]
    cases o.run <;> cases o.key <;> rfl
  | input i => simp [Channel.shown, Channel.bytes, bitOf_eq_toNat, timeBytes]

theorem channelBytes_length (c : Channel) : c.bytes.length = 12 := by
  cases c with
  | off => rfl
  | output o => cases hkey : o.key <;> simp [Channel.bytes, runKeyBytes, timeBytes, hkey]
  | input i => simp [Channel.bytes, timeBytes]

theorem peersIn_eq (s : State) (state : PeerState) :
    (stations.filter fun p => decide ((s.peer? p).map Peer.state = some state)).length = s.peersIn state := by
  unfold State.peersIn
  congr 1
  refine List.filter_congr fun p _ => ?_
  cases s.peer? p <;> simp [beq_eq_decide]

/-- The blocks of a STATUS reply are the figures, in their order (11.5). -/
theorem statusBlocks_eq (s : State) : s.statusBlocks = [(0, 7, s.controlBytes), (7, 10, s.cueBytes), (17, 96, s.channelBytes),
    (113, 4, s.markBytes), (117, 5, s.rosterFigures), (122, 7, s.postBytes), (129, 15, s.frameBytes), (144, 31, s.accessBytes),
    (175, 4, s.signalBytes), (179, 3, s.portBytes)] := by
  simp only [State.statusBlocks, List.cons.injEq, Prod.mk.injEq, true_and, and_true]
  refine ⟨?control, ?cue, ?channel, ?marks, ?roster, ?post, ?frame, ?access, ?signal, ?port⟩
  case control =>
    simp only [State.controlBytes, State.listenLeft, bitOf_eq_toNat]
    cases s.control.station <;> rcases s.control.cause with _ | cause <;> try cases cause
    all_goals rfl
  case cue => rfl
  case channel => simp only [State.channelBytes, shown_eq]
  case marks => rfl
  case roster => simp only [State.rosterFigures, peersIn_eq]
  case post => rfl
  case frame => simp [State.frameBytes]
  case access =>
    simp only [State.accessBytes, State.pendingFlags, State.postingCounts, referenceBytes, bitOf_eq_toNat, beq_eq_decide,
      List.flatMap_cons, List.flatMap_nil, List.append_nil, List.append_assoc]
    cases s.access.condition <;> cases s.access.due <;> cases s.access.reference <;> rfl
  case signal => simp only [State.signalBytes, bitOf_eq_toNat]
  case port => simp only [State.portBytes, bitOf_eq_toNat]

theorem statusBlocks_consecutive (s : State) : Consecutive 0 s.statusBlocks := by
  have hchannels : ∀ l : List ChannelNo, (l.flatMap fun c => (s.chan c).bytes).length = 12 * l.length := by
    intro l
    induction l with
    | nil => rfl
    | cons c l ih =>
      rw [List.flatMap_cons, List.length_append, channelBytes_length, ih, List.length_cons]
      omega
  have hreference : (referenceBytes s.access.reference).length = 8 := by cases s.access.reference <;> simp [referenceBytes]
  have hcounts : s.postingCounts.length = 8 := by simp [State.postingCounts]
  rw [statusBlocks_eq]
  refine ⟨rfl, ?_, rfl, ?_, rfl, hchannels channelNumbers, rfl, ?_, rfl, ?_, rfl, ?_, rfl, ?_, rfl, ?_, rfl, ?_, rfl, ?_, trivial⟩
  · simp [State.controlBytes]
  · simp [State.cueBytes, timeBytes]
  · simp [State.markBytes]
  · simp [State.rosterFigures]
  · simp [State.postBytes]
  · simp [State.frameBytes]
  · simp [State.accessBytes, hreference, hcounts]
  · simp [State.signalBytes]
  · simp [State.portBytes]

theorem statusBody_eq (s : State) : s.statusBody = s.statusBlocks.flatMap fun b => b.2.2 := by
  rw [statusBlocks_eq]
  simp [State.statusBody]

theorem statusBody_length (s : State) : s.statusBody.length = 182 := by
  have hsum : ∀ {start : Nat} {blocks : List (Nat × Nat × List Byte)}, Consecutive start blocks →
      (blocks.flatMap fun b => b.2.2).length = (blocks.map fun b => b.2.1).sum := by
    intro start blocks
    induction blocks generalizing start with
    | nil => exact fun _ => rfl
    | cons first rest ih =>
      rintro ⟨-, hlength, hrest⟩
      rw [List.flatMap_cons, List.length_append, ih hrest, hlength]
      rfl
  rw [statusBody_eq, hsum (statusBlocks_consecutive s), statusBlocks_eq]
  rfl

/-- Settles O23: STAMP, ROSTER and STATUS, each from its figures. -/
theorem readRequestsAnswerFromFigures : Obligations.ReadRequestsAnswerFromFigures := by
  refine ⟨fun n v k h => ⟨length_bytesOf n v, bytesOf_getElem? v h⟩, fun s => ⟨exec_eq s (.stamp []), ?_, fun p => ⟨rosterBytes_self,
    fun e he => ⟨fun habsent => ?_, fun code hcode reported last hreported hlast => ?_⟩⟩, rfl, s.statusBody,
    exec_eq s (.status []), statusBody_length s, fun block hblock => ?_⟩⟩
  · refine (exec_eq s (.roster [])).trans (congrArg (fun body => Host.Outcome.next (s.replied [11, 0] .ok body)) ?_)
    have hcount : (stations.flatMap s.rosterBytes).length / 7 = (stations.filter fun p => !s.isAbsent p).length := by
      rw [length_flatMap_rosterBytes]
      omega
    rw [← hcount]
    rfl
  · rw [rosterBytes_peer he, if_pos habsent]
  · have hstate : e.state ≠ .absent ∧ e.state.code = code := by
      obtain ⟨h, rfl⟩ | ⟨h, rfl⟩ | ⟨h, rfl⟩ := hcode <;> simp [h, PeerState.code]
    rw [rosterBytes_peer he, if_neg hstate.1, hstate.2, bitOf_eq_toNat, Peer.reportedCode, State.beatAge, hreported, hlast]
    rfl
  · rw [statusBody_eq]
    exact (Consecutive.read (front := []) (statusBlocks_consecutive s) hblock)

end Sys2Proof.Machine

namespace Sys2Proof.Machine

/-! ### The timebase: slew steps, pools and corrections (R3, R13 to R17) -/

theorem exec_slewStep {s : State} (hmark : s.tb.localTime.toNat % 1024 = 0) (htaken : s.tb.slewTaken = false) :
    exec .slewStep s = .next (s.onTb Timebase.slew) := by
  have hmarked : s.slewMarked = true := by simp [State.slewMarked, hmark, htaken]
  rw [exec_eq]
  exact congrArg Host.Outcome.next (if_pos hmarked)

/-- Settles O24: the slew step by the sign of P. -/
theorem slewStepMovesTheOffset : Obligations.SlewStepMovesTheOffset := by
  intro s hmark htaken
  have hexec := exec_slewStep hmark htaken
  have hshared : ∀ d : Time, s.tb.localTime + (s.tb.offset + d) = s.shared + d := fun d => (add_assoc ..).symm
  refine ⟨fun hpos => ⟨_, hexec, ?_, ?_⟩, fun hzero => ⟨_, hexec, ?_, ?_⟩, fun hneg => ⟨_, hexec, ?_, ?_⟩⟩
  · simp only [State.shared, State.onTb, Timebase.slew, if_pos hpos]
    bv_omega
  · simp only [State.onTb, Timebase.slew, if_pos hpos]
    rfl
  · simp only [State.shared, State.onTb, Timebase.slew, hzero, lt_irrefl, if_false]
    bv_omega
  · simp only [State.onTb, Timebase.slew, hzero, lt_irrefl, if_false]
  · simp only [State.shared, State.onTb, Timebase.slew, if_neg (not_lt.mpr hneg.le), if_pos hneg]
    bv_omega
  · simp only [State.onTb, Timebase.slew, if_neg (not_lt.mpr hneg.le), if_pos hneg]

theorem isSettled_eq (t : TbState) : t.isSettled = decide (t = .locked ∨ t = .holdover) := by cases t <;> rfl

theorem poolOf_ne_nil (start : TbState) (usable : List (Int × TbState)) : (poolOf start usable).entries ≠ [] := by
  unfold poolOf
  simp only []
  split
  · simp
  · split
    · simp
    · next h => simpa using h

/-- Settles O27: the pool by the start state. -/
theorem poolByStartState : Obligations.PoolByStartState := by
  intro start usable settled pool
  have hsettled : (usable.filter fun x => x.2.isSettled).map Prod.fst = settled := by
    simp only [isSettled_eq]
    rfl
  have hpool : pool = if start.isSettled then { entries := 0 :: settled, peers := !settled.isEmpty }
      else if settled.isEmpty then { entries := 0 :: usable.map Prod.fst, peers := !usable.isEmpty }
      else { entries := settled, peers := true } := by
    rw [← hsettled]
    rfl
  have hfree : start = .solo ∨ start = .gathering → start.isSettled = false := by rintro (rfl | rfl) <;> rfl
  have hbound : start = .locked ∨ start = .holdover → start.isSettled = true := by rintro (rfl | rfl) <;> rfl
  refine ⟨fun hstart hsome => ?_, fun hstart hnone => ?_, fun hstart => ?_, poolOf_ne_nil start usable⟩
  · rw [hpool, hfree hstart, if_neg (by simp), if_neg (by simpa using hsome)]
  · rw [hpool, hfree hstart, if_neg (by simp), if_pos (by simpa using hnone)]
  · rw [hpool, hbound hstart, if_pos rfl]

theorem usableSample_eq_some_iff (s : State) (p : StationNo) (v : Int) (reported : TbState) :
    s.usableSample p = some (v, reported) ↔ ∃ x e, s.tb.samples[p.toNat] = some x ∧ s.peer? p = some e
      ∧ e.state = .present ∧ (s.tb.localTime - x.localTime).toNat ≤ 2 * s.beat
      ∧ v = x.value.toInt - (s.tb.offset - x.offset).toInt ∧ reported = x.reported := by
  unfold State.usableSample
  cases hx : s.tb.samples[p.toNat] with
  | none => simp
  | some x =>
    simp only [Bool.and_eq_true, decide_eq_true_eq]
    constructor
    · intro h
      split at h
      · next hused =>
        obtain ⟨hfresh, hpresent⟩ := hused
        obtain ⟨rfl, rfl⟩ := Prod.mk.inj (Option.some.inj h)
        unfold State.isPresent at hpresent
        cases he : s.peer? p with
        | none => simp [he] at hpresent
        | some e => exact ⟨x, e, rfl, rfl, by simpa [he] using hpresent, hfresh, rfl, rfl⟩
      · cases h
    · rintro ⟨y, e, hy, he, hpresent, hfresh, rfl, rfl⟩
      obtain rfl := Option.some.inj hy
      have hused : s.isPresent p = true := by simp [State.isPresent, he, hpresent]
      rw [if_pos ⟨hfresh, hused⟩]
      rfl

/-- The ends of a rising list are its smallest and its largest entry. -/
theorem ends_of_rising {l : List Int} (h : l.Pairwise (· ≤ ·)) (hne : l ≠ []) :
    l.headD 0 ∈ l ∧ l.getLastD 0 ∈ l ∧ ∀ x ∈ l, l.headD 0 ≤ x ∧ x ≤ l.getLastD 0 := by
  have hlast : l.getLastD 0 = l.getLast hne := by rw [List.getLastD_eq_getLast?, List.getLast?_eq_some_getLast hne]; rfl
  have hhead : l.headD 0 = l.head hne := by cases l with | nil => exact absurd rfl hne | cons _ _ => rfl
  rw [hlast, hhead]
  refine ⟨List.head_mem hne, List.getLast_mem hne, fun x hx => ⟨?_, ?_⟩⟩
  · obtain ⟨a, rest, rfl⟩ := List.exists_cons_of_ne_nil hne
    obtain rfl | hx := List.mem_cons.mp hx
    · exact le_rfl
    · exact (List.pairwise_cons.mp h).1 x hx
  · rw [← List.dropLast_append_getLast hne] at h hx
    obtain ⟨-, -, hbefore⟩ := List.pairwise_append.mp h
    obtain hx | hx := List.mem_append.mp hx
    · exact hbefore x hx _ (List.mem_singleton.mpr rfl)
    · exact (List.mem_singleton.mp hx).le

/-- Settles O29: C is the midpoint of the ends of the retained entries, and W their difference. -/
theorem correctionIsTheMidpoint : Obligations.CorrectionIsTheMidpoint := by
  intro s retained
  refine ⟨usableSample_eq_some_iff s, ?_⟩
  have hrising : retained.Pairwise (· ≤ ·) :=
    (rising_pairwise _).sublist ((List.take_sublist _ _).trans (List.drop_sublist _ _))
  have hne : retained ≠ [] := by
    have hpool := List.length_pos_iff.mpr (poolOf_ne_nil s.tb.tbState (stations.filterMap s.usableSample))
    have hlt := trimCount_lt hpool
    refine List.length_pos_iff.mp ?_
    rw [length_trimmed]
    omega
  obtain ⟨hlo, hhi, hbetween⟩ := ends_of_rising hrising hne
  refine ⟨_, hlo, _, hhi, hbetween, rfl, ?_⟩
  have hle := (hbetween _ hlo).2
  change ((spreadOf retained).toNat : Int) = _
  rw [spreadOf, BitVec.toNat_ofNat]
  omega

/-! ### The end of LISTEN and the words of R28 -/

/-- Settles O32: the end of LISTEN. -/
theorem listenEnds : Obligations.ListenEnds := by
  intro s c since hlisten hconfig hstart hover
  have hended : s.listenEnded = true := by
    simp only [State.listenEnded, hlisten, hstart, State.beat, hconfig]
    exact decide_eq_true hover
  rw [exec_eq]
  refine congrArg Host.Outcome.next ((if_pos hended).trans ?_)
  rw [setStation]
  cases hseen : s.access.endSeen <;> by_cases hheld : s.access.condition = .held <;>
    simp [setReference, State.onControl, State.onAccess, FrameEndRef.notGood, hseen, hheld, hlisten, State.now]

theorem isDue_iff (f n : Time) : isDue f n = true ↔ ahead f n = 0 := beq_iff_eq

theorem isAhead_iff (f n : Time) : isAhead f n = true ↔ 1 ≤ ahead f n ∧ ahead f n ≤ 2 ^ 36 := by
  simp only [isAhead, Bool.and_eq_true, decide_eq_true_eq]
  rfl

theorem isFar_iff (f n : Time) : isFar f n = true ↔ 2 ^ 36 < ahead f n ∧ ahead f n < 2 ^ 47 := by
  simp only [isFar, Bool.and_eq_true, decide_eq_true_eq]
  rfl

theorem isPassed_iff (f n : Time) : isPassed f n = true ↔ 2 ^ 47 ≤ ahead f n := decide_eq_true_iff

theorem toNat_of_iff {b : Bool} {p : Prop} [Decidable p] (h : b = true ↔ p) : b.toNat = if p then 1 else 0 := by
  split
  · next hp => rw [h.mpr hp]; rfl
  · next hp => rw [Bool.eq_false_iff.mpr fun hb => hp (h.mp hb)]; rfl

/-- Settles O33: the words of R28. -/
theorem aheadDistanceWords : Obligations.AheadDistanceWords := by
  intro f n
  have hlt : ahead f n < 2 ^ 48 := (f - n).isLt
  refine ⟨?_, ?_, ?_, ?_, ?_, ?_⟩
  · have hf := f.isLt
    have hn := n.isLt
    rw [ahead, BitVec.toNat_sub]
    omega
  · exact isDue_iff f n
  · exact isAhead_iff f n
  · exact isFar_iff f n
  · rw [isPassed_iff]
    omega
  · rw [toNat_of_iff (isDue_iff f n), toNat_of_iff (isAhead_iff f n), toNat_of_iff (isFar_iff f n), toNat_of_iff (isPassed_iff f n)]
    split_ifs <;> omega

/-! ### The verdict of a record (R33, R34) -/

theorem validWidth_iff (w : BitVec 24) : validWidth w = true ↔ ¬ (w.toNat = 0 ∨ 1048575 < w.toNat) := by
  simp only [validWidth, Bool.and_eq_true, decide_eq_true_eq]
  omega

/-- The MALFORMED test (R34). -/
theorem heldAction_eq_none_iff (r : CueSpec) : r.heldAction = none ↔
    (r.action = .pulse ∧ ∀ w, r.width = some w → w.toNat = 0 ∨ 1048575 < w.toNat)
    ∨ (r.action = .train ∧ ∀ w p n, r.width = some w → r.period = some p → r.count = some n →
        w.toNat = 0 ∨ 1048575 < w.toNat ∨ p.toNat < 2 ∨ n.toNat < 2 ∨ p.toNat ≤ w.toNat) := by
  unfold CueSpec.heldAction
  cases r.action with
  | raise | lower | flip => simp
  | pulse =>
    cases r.width with
    | none => simp
    | some w =>
      simp only [Option.some.injEq, forall_eq', true_and, reduceCtorEq, false_and, or_false]
      by_cases h : validWidth w = true
      · simpa [h] using (validWidth_iff w).mp h
      · simpa [h] using not_not.mp (mt (validWidth_iff w).mpr h)
  | train =>
    cases r.width with
    | none => simp
    | some w =>
      cases r.period with
      | none => simp
      | some p =>
        cases r.count with
        | none => simp
        | some n =>
          have hvalid := validWidth_iff w
          have hbad : (∀ w' p' n', some w = some w' → some p = some p' → some n = some n' →
              w'.toNat = 0 ∨ 1048575 < w'.toNat ∨ p'.toNat < 2 ∨ n'.toNat < 2 ∨ p'.toNat ≤ w'.toNat) ↔
              w.toNat = 0 ∨ 1048575 < w.toNat ∨ p.toNat < 2 ∨ n.toNat < 2 ∨ p.toNat ≤ w.toNat :=
            ⟨fun h => h w p n rfl rfl rfl, fun h w' p' n' hw hp hn => by
              rw [← Option.some.inj hw, ← Option.some.inj hp, ← Option.some.inj hn]
              exact h⟩
          simp only [hbad, reduceCtorEq, false_and, false_or, true_and]
          by_cases h : (validWidth w && 2 ≤ p.toNat && w.toNat < p.toNat && 2 ≤ n.toNat) = true
          · rw [if_pos h]
            simp only [Bool.and_eq_true, decide_eq_true_eq, hvalid] at h
            simp only [reduceCtorEq, false_iff]
            omega
          · rw [if_neg h]
            simp only [Bool.and_eq_true, decide_eq_true_eq, hvalid] at h
            simp only [true_iff]
            omega

theorem isOutput_iff (s : State) (c : ChannelNo) : s.isOutput c = true ↔ ∃ o, s.chan c = .output o := by
  unfold State.isOutput
  cases s.chan c <;> simp

theorem holds_iff (t : CueTable) (key : CueKey) : t.holds key = true ↔ ∃ h ∈ t.held, h.key = key := by
  simp [CueTable.holds]

/-- The words of R28 exclude one another. -/
theorem timeVerdict_stale {s : State} {f : Time} (h : isPassed f s.shared = true) : s.timeVerdict (some f) = .stale := if_pos h

theorem timeVerdict_far {s : State} {f : Time} (h : isFar f s.shared = true) : s.timeVerdict (some f) = .far := by
  have hfar := (isFar_iff f s.shared).mp h
  have hpassed : ¬ isPassed f s.shared = true := fun hp => by
    have := (isPassed_iff f s.shared).mp hp
    omega
  exact (if_neg hpassed).trans (if_pos h)

theorem timeVerdict_near {s : State} {f : Time} (h : ahead f s.shared ≤ 2 ^ 36) : s.timeVerdict (some f) =
    if cueCapacity ≤ s.cues.held.length && isAhead f s.shared then .full else .held := by
  have hpassed : ¬ isPassed f s.shared = true := fun hp => by
    have := (isPassed_iff f s.shared).mp hp
    omega
  have hfar : ¬ isFar f s.shared = true := fun hf => by
    have := (isFar_iff f s.shared).mp hf
    omega
  exact (if_neg hpassed).trans (if_neg hfar)

/-- Settles O34: the first condition of R33 that applies. -/
theorem installVerdictInOrder : Obligations.InstallVerdictInOrder := by
  refine ⟨heldAction_eq_none_iff, ?_⟩
  intro s key r channelOk held late v
  have hwell : r.heldAction ≠ none → ¬ r.heldAction.isNone = true := fun h => by simpa using h
  have hchannel : channelOk → ¬ (!s.isOutput r.channel) = true := fun h => by simp [(isOutput_iff s r.channel).mpr h]
  have hfree : ¬ held → ¬ s.cues.holds key = true := fun h hh => h ((holds_iff s.cues key).mp hh)
  have hpast : r.heldAction ≠ none → channelOk → ¬ held → v = match s.cues.leftBy key with
      | some .fired => .done
      | some .withdrawn => .withdrawn
      | none => s.timeVerdict r.fire := fun h1 h2 h3 =>
    (if_neg (hwell h1)).trans ((if_neg (hchannel h2)).trans (if_neg (hfree h3)))
  refine ⟨fun h => if_pos (by simp [h]), fun h1 h2 => ?_, fun h1 h2 h3 => ?_, fun h1 h2 h3 h4 => ?_, fun h1 h2 h3 h4 => ?_,
    fun h1 h2 h3 h4 => ?_⟩
  · refine (if_neg (hwell h1)).trans (if_pos ?_)
    rw [Bool.not_eq_true', ← Bool.not_eq_true]
    exact fun hout => h2 ((isOutput_iff s r.channel).mp hout)
  · exact (if_neg (hwell h1)).trans ((if_neg (hchannel h2)).trans (if_pos ((holds_iff s.cues key).mpr h3)))
  · rw [hpast h1 h2 h3, h4]
  · rw [hpast h1 h2 h3, h4]
  · have hv := hpast h1 h2 h3
    rw [h4] at hv
    refine ⟨fun ⟨f, hf, hlate⟩ => ?_, fun ⟨f, hf, hlate⟩ => ?_, fun ⟨f, hf, hlate⟩ hfull => ?_, fun ⟨f, hf, hlate⟩ hroom => ?_,
      fun ⟨f, hf, hlate⟩ => ?_, fun hf => ?_⟩ <;> rw [hv, hf]
    · exact timeVerdict_stale hlate
    · exact timeVerdict_far hlate
    · rw [timeVerdict_near ((isAhead_iff f s.shared).mp hlate).2, if_pos]
      rw [hlate, Bool.and_true]
      exact decide_eq_true hfull
    · rw [timeVerdict_near ((isAhead_iff f s.shared).mp hlate).2, if_neg]
      rw [hlate, Bool.and_true, decide_eq_true_iff]
      exact Nat.not_le.mpr hroom
    · have hzero := (isDue_iff f s.shared).mp hlate
      rw [timeVerdict_near (by omega), if_neg]
      simp [isAhead, hzero]
    · rfl

end Sys2Proof.Machine

namespace Sys2Proof.Machine

/-! ### A firing at its channel (R43, R54 to R61) -/

/-- A run cut before an action (R55). -/
theorem cut_eq (o : OutputState) (channel : ChannelNo) (cutting : CueKey) (time : Time) : o.cut channel cutting time =
    (if o.run = .idle then o else o.stopped,
      if o.run ≠ .idle ∧ o.report then [.cueCut {
        key := o.key.getD { origin := 0, serial := 0 }
        channel := channel
        completed := o.completed
        count := o.completed + o.left
        cutting := some cutting
        time := time }] else []) := by
  unfold OutputState.cut
  by_cases hidle : o.run = .idle
  · simp [hidle]
  · cases hreport : o.report <;> simp [hidle, OutputState.stopped, OutputState.toIdle, OutputState.cutReport, OutputState.count, hreport]

/-- What a run of n pulses reports when its first END is passed at once (R61). -/
def passedReports (n : Nat) (key : CueKey) (report : Bool) (first tickEnd : Time) (channel : ChannelNo) (now : Time) :
    List ReportBody :=
  if report ∧ 2 ≤ n ∧ 2 ^ 47 ≤ ahead first tickEnd then [.cueCut {
    key := key
    channel := channel
    completed := 1
    count := n
    cutting := none
    time := now }] else []

theorem ahead_eq_zero_iff (f n : Time) : ahead f n = 0 ↔ f = n := by
  rw [ahead]
  constructor
  · intro h
    exact sub_eq_zero.mp (BitVec.eq_of_toNat_eq h)
  · rintro rfl
    simp

/-- The first-edge test of a run just started (R61). -/
theorem startRun_test (o : OutputState) (kind : RunKind) (width period : BitVec 24) (n : Nat) (key : CueKey) (report : Bool)
    (origin : Time) (channel : ChannelNo) (now tickEnd : Time) :
    (o.startRun kind width period n key report origin).testFirstEdge channel now tickEnd =
      (o.started kind width period n key report origin tickEnd,
        passedReports n key report (origin + BitVec.ofNat 48 width.toNat) tickEnd channel now) := by
  have hnext : (o.startRun kind width period n key report origin).nextTime = some (origin + BitVec.ofNat 48 width.toNat) := rfl
  unfold OutputState.testFirstEdge
  rw [hnext]
  simp only [OutputState.started]
  by_cases hdue : origin + BitVec.ofNat 48 width.toNat = tickEnd
  · have hzero : ahead (origin + BitVec.ofNat 48 width.toNat) tickEnd = 0 := (ahead_eq_zero_iff _ _).mpr hdue
    rw [if_pos ((isDue_iff _ _).mpr hzero), if_pos hdue, passedReports, hzero]
    refine Prod.ext ?_ (if_neg fun h => absurd h.2.2 (by simp)).symm
    by_cases hone : n ≤ 1
    · have hleft : n - 1 = 0 := by omega
      rw [if_pos hone]
      simp only [OutputState.takeEdge, OutputState.startRun, hleft, if_true]
      rfl
    · have hleft : n - 1 ≠ 0 := by omega
      rw [if_neg hone]
      simp [OutputState.takeEdge, OutputState.startRun, hleft, plusTicks]
  · have hzero : ¬ ahead (origin + BitVec.ofNat 48 width.toNat) tickEnd = 0 := mt (ahead_eq_zero_iff _ _).mp hdue
    rw [if_neg (mt (isDue_iff _ _).mp hzero), if_neg hdue]
    by_cases hpassed : 2 ^ 47 ≤ ahead (origin + BitVec.ofNat 48 width.toNat) tickEnd
    · rw [if_pos ((isPassed_iff _ _).mpr hpassed), if_pos hpassed, passedReports]
      refine Prod.ext rfl ?_
      have hcount : 0 < n - 1 ↔ 2 ≤ n := by omega
      simp only [OutputState.endPassed, OutputState.startRun, OutputState.cutReport, OutputState.count, hcount, hpassed, and_true]
      by_cases htold : 2 ≤ n ∧ report = true
      · have hn : 0 + 1 + (n - 1) = n := by omega
        rw [if_pos htold, if_pos htold.symm, hn]
        rfl
      · rw [if_neg htold, if_neg fun h => htold h.symm]
    · rw [if_neg (mt (isPassed_iff _ _).mp hpassed), if_neg hpassed, passedReports, if_neg (fun h => hpassed h.2.2)]
      rfl

/-- An action at a channel that is ready for it (R56 to R58). -/
def OutputState.ready (o : OutputState) : OutputState := if o.run = .idle then o else o.stopped

/-- What an action itself reports: a train passed at its application (R61). -/
def actionReports (action : HeldAction) (key : CueKey) (report : Bool) (origin tickEnd : Time) (channel : ChannelNo)
    (now : Time) : List ReportBody :=
  match action with
  | .train width _ n => passedReports n.toNat key report (origin + BitVec.ofNat 48 width.toNat) tickEnd channel now
  | .raise | .lower | .flip | .pulse _ => []

theorem act_eq (o : OutputState) (channel : ChannelNo) (action : HeldAction) (key : CueKey) (report : Bool) (fire : Option Time)
    (now tickEnd : Time) : o.ready.act channel action key report fire now tickEnd =
      (o.acted action key report (fire.getD now) tickEnd, actionReports action key report (fire.getD now) tickEnd channel now) := by
  cases action with
  | raise => rfl
  | lower => rfl
  | flip => rfl
  | pulse width =>
    refine (startRun_test ..).trans (Prod.ext rfl ?_)
    exact if_neg fun h => by omega
  | train width period n => exact startRun_test ..

theorem queueReports_append (a b : List ReportBody) (s : State) :
    queueReports (a ++ b) s = queueReports b (queueReports a s) := List.foldl_append ..

/-- The note of a fixed slew step (R61, log 32). -/
theorem testsTheStep_eq (s : State) (action : HeldAction) (fire : Option Time) :
    s.testsTheStep action fire = s.turnsOnTheStep action (fire.getD s.shared) := by
  cases action <;>
    simp [State.testsTheStep, State.turnsOnTheStep, HeldAction.firstEnd, plusTicks, State.slewMarked, beq_eq_decide, Bool.and_assoc,
      Bool.decide_and]

/-- The reports of a firing, in the order of R59. -/
theorem firingReports_eq (o : OutputState) (action : HeldAction) (report : Bool) (fired : FiredReport) (origin tickEnd : Time) :
    o.firingReports action report fired origin tickEnd = (o.cut fired.channel fired.key fired.time).2
      ++ firedReports report fired ++ actionReports action fired.key report origin tickEnd fired.channel fired.time := by
  rw [cut_eq]
  cases action <;> rfl

/-- A cue that fires at an OUTPUT channel (R43). -/
theorem fireCue_output {s : State} {channel : ChannelNo} {o : OutputState} (ho : s.chan channel = .output o) (key : CueKey)
    (action : HeldAction) (report : Bool) (path : InstallPath) (installNo : Option Count16) (fire : Option Time) (late : Bool) :
    fireCue key channel action report path installNo fire late s = s.fires o action report {
      key := key
      channel := channel
      path := path
      installNo := installNo
      fire := fire
      time := s.shared
      late := late
      tbState := s.tb.tbState } (fire.getD s.shared) s.tickShared := by
  have hchan : (s.onCues (CueTable.leave key .fired)).chan channel = .output o := ho
  unfold fireCue fireAtChannel
  rw [hchan]
  simp only []
  have hready : (o.cut channel key s.shared).1 = o.ready := by rw [cut_eq]; rfl
  have hstep : (s.onCues (CueTable.leave key .fired)).testsTheStep action fire = s.turnsOnTheStep action (fire.getD s.shared) :=
    testsTheStep_eq (s.onCues (CueTable.leave key .fired)) action fire
  have hshared : (s.onCues (CueTable.leave key .fired)).shared = s.shared := rfl
  have htick : (s.onCues (CueTable.leave key .fired)).tickShared = s.tickShared := rfl
  rw [hstep, hshared, htick, hready, act_eq, State.fires, firingReports_eq, queueReports_append, queueReports_append]
  rfl

/-- A cue at a channel that is not OUTPUT fires with its report alone (log 23). -/
theorem fireCue_other {s : State} {channel : ChannelNo} (h : ∀ o, s.chan channel ≠ .output o) (key : CueKey)
    (action : HeldAction) (report : Bool) (path : InstallPath) (installNo : Option Count16) (fire : Option Time) (late : Bool) :
    fireCue key channel action report path installNo fire late s = queueReports (firedReports report {
      key := key
      channel := channel
      path := path
      installNo := installNo
      fire := fire
      time := s.shared
      late := late
      tbState := s.tb.tbState }) { s with cues := s.cues.leave key .fired } := by
  have hchan : (s.onCues (CueTable.leave key .fired)).chan channel = s.chan channel := rfl
  unfold fireCue fireAtChannel
  rw [hchan]
  cases hc : s.chan channel with
  | output o => exact absurd hc (h o)
  | off => rfl
  | input i => rfl

/-- A held entry that fires where the tick ends with the shared time that stands (R43, R47). -/
theorem fireEntry_eq {s : State} (htick : s.tickShared = s.shared) (late : Bool) (h : HeldEntry) :
    fireEntry late s h = s.firesEntry s.shared late s.tb.tbState h := by
  unfold fireEntry State.firesEntry
  cases hchan : s.chan h.channel with
  | output o =>
    rw [fireCue_output hchan, htick]
    rfl
  | off | input => exact fireCue_other (by simp [hchan]) ..

theorem tickShared_eq {s : State} (h : s.slewDue = false) : s.tickShared = s.shared := by
  unfold State.tickShared
  refine if_neg fun hmarked => ?_
  simp only [Bool.and_eq_true, decide_eq_true_eq] at hmarked
  obtain ⟨hmark, hpos⟩ := hmarked
  have hne : s.tb.correction ≠ 0 := by omega
  simp [State.slewDue, hmark, hne] at h

/-- Several entries fire one after another; none of them moves the shared time. -/
theorem fireEntries_eq (late : HeldEntry → Bool) (es : List HeldEntry) {s : State} (htick : s.tickShared = s.shared) :
    es.foldl (fun u h => fireEntry (late h) u h) s
      = es.foldl (fun u h => u.firesEntry s.shared (late h) s.tb.tbState h) s := by
  have hgeneral : ∀ u : State, u.tb = s.tb → es.foldl (fun u h => fireEntry (late h) u h) u
      = es.foldl (fun u h => u.firesEntry s.shared (late h) s.tb.tbState h) u := by
    induction es with
    | nil => exact fun _ _ => rfl
    | cons h es ih =>
      intro u hu
      have hshared : u.shared = s.shared := by rw [State.shared, hu, State.shared]
      have hticku : u.tickShared = u.shared := by
        unfold State.tickShared State.slewMarked at htick ⊢
        rw [hshared, hu]
        exact htick
      rw [List.foldl_cons, List.foldl_cons, ih _ (by simpa using hu), fireEntry_eq hticku, hshared, hu]
  exact hgeneral s rfl

/-- Up to 32 entries with distinct keys that fire all stand as FIRED in the recent-key list. -/
theorem leftBy_leaveAll {es : List HeldEntry} (t : CueTable) (hkeys : (es.map HeldEntry.key).Nodup) (hlength : es.length ≤ 32)
    {h : HeldEntry} (hh : h ∈ es) : (es.foldl (fun c e => c.leave e.key .fired) t).leftBy h.key = some .fired := by
  obtain ⟨young, hrecent, hyoung⟩ := leaveAll_recent es t [] t.recent (by simp) (by simp) (by simpa using hkeys) (by simpa using hlength)
  rw [List.nil_append] at hrecent hyoung
  rw [CueTable.leftBy, hrecent, List.find?_append, List.find?_eq_none.mpr (by simpa using fun r hr => hyoung r hr h hh),
    Option.none_or]
  have hfound : ((es.map fun e => ({ key := e.key, how := .fired } : RecentKey)).find? fun r => r.key == h.key).isSome := by
    rw [List.find?_isSome]
    exact ⟨_, List.mem_map_of_mem hh, by simp⟩
  obtain ⟨r, hr⟩ := Option.isSome_iff_exists.mp hfound
  obtain ⟨e, -, rfl⟩ := List.mem_map.mp (List.mem_of_find?_eq_some hr)
  rw [hr]
  rfl

theorem reaches_eq (s : State) (t : Time) : s.reaches t = (t == s.shared || s.tb.stepped == some t) := rfl

/-- HEAD_DUE where some entry is reached (R42, R44). -/
theorem fireDue_eq {s : State} (hopen : s.control.station ≠ .prep) (hslew : s.slewDue = false)
    (hdue : ∃ h ∈ s.cues.held, h.fire = s.shared ∨ s.tb.stepped = some h.fire) :
    fireDue s = (s.cues.held.filter fun h => h.fire == s.shared || s.tb.stepped == some h.fire).foldl
      (fun u h => u.firesEntry s.shared false s.tb.tbState h) s := by
  have hhead : s.headDue = true := by
    have hopened := (opened_iff s).mpr hopen
    obtain ⟨h, hh, hreached⟩ := hdue
    have hany : (s.cues.held.any fun e => s.reaches e.fire) = true :=
      List.any_eq_true.mpr ⟨h, hh, by simpa [reaches_eq] using hreached⟩
    simp [State.headDue, hopened, hslew, hany]
  rw [fireDue, if_pos hhead]
  exact fireEntries_eq (fun _ => false) _ (tickShared_eq hslew)

/-- Settles O35: the entries that are due fire one after another, and the others keep their places. -/
theorem headDueFiresEveryDueEntry : Obligations.HeadDueFiresEveryDueEntry := by
  intro s ⟨_, hkeys⟩ hopen hslew hdue
  have heq := fireDue_eq hopen hslew hdue
  have hcues : (fireDue s).cues = (s.cues.held.filter fun h => h.fire == s.shared || s.tb.stepped == some h.fire).foldl
      (fun c e => c.leave e.key .fired) s.cues := by
    have hfires : fireDue s = (s.cues.held.filter fun h => h.fire == s.shared || s.tb.stepped == some h.fire).foldl
        (fun u h => fireEntry ((fun _ => false) h) u h) s := by
      rw [heq, fireEntries_eq (fun _ => false) _ (tickShared_eq hslew)]
    rw [hfires, fireEntries_cues]
  obtain ⟨hheld, hcount⟩ := leaveAll_held (s.cues.held.filter fun h => h.fire == s.shared || s.tb.stepped == some h.fire) s.cues
  refine ⟨fireDue s, exec_eq s .headDue, heq, ?_, ?_, fun hlength h hh hreached => ?_, ?_⟩
  · rw [hcues, hheld, filter_keys_of_nodup _ hkeys]
  · rw [hcues, hcount]
  · rw [hcues]
    refine leftBy_leaveAll _ (hkeys.sublist (List.filter_sublist.map _)) hlength (List.mem_filter.mpr ⟨hh, ?_⟩)
    simpa using hreached
  · simp

/-- Settles O36: one entry at its fire time. -/
theorem firingActsOnItsChannel : Obligations.FiringActsOnItsChannel := by
  intro s h rest o hopen hslew hheld hreached hrest ho
  have hdue : ∃ g ∈ s.cues.held, g.fire = s.shared ∨ s.tb.stepped = some g.fire := ⟨h, by simp [hheld], hreached⟩
  have hothers : rest.filter (fun g => g.fire == s.shared || s.tb.stepped == some g.fire) = [] :=
    List.filter_eq_nil_iff.mpr fun g hg => by
      obtain ⟨h1, h2⟩ := hrest g hg
      simp [h1, h2]
  have hdue' : (h.fire == s.shared || s.tb.stepped == some h.fire) = true := by simpa using hreached
  rw [exec_eq]
  refine congrArg Host.Outcome.next ((fireDue_eq hopen hslew hdue).trans ?_)
  rw [hheld, List.filter_cons, if_pos hdue', hothers]
  simp only [List.foldl_cons, List.foldl_nil, State.firesEntry, ho]

end Sys2Proof.Machine

/-! The cue table, the edge watch and the input edges: how a record is settled, what leaves the table, and what an edge
does. -/

namespace Sys2Proof.Machine

/-! ## The recent-key list (R31) -/

theorem leftBy_ne_none {t : CueTable} {key : CueKey} : t.leftBy key ≠ none ↔ ∃ r ∈ t.recent, r.key = key := by
  rw [ne_eq, leftBy_eq_none]
  simp

/-- The recent-key list with room once the old entry of the key is out. -/
theorem addRecent_room {key : CueKey} {recent : List RecentKey} (how : Departure)
    (hroom : (recent.filter fun r => r.key != key).length < 32) :
    addRecent key how recent = (recent.filter fun r => r.key != key) ++ [{ key := key, how := how }] := by
  have hzero : (recent.filter fun r => r.key != key).length + 1 - recentCapacity = 0 := by
    rw [show recentCapacity = 32 from rfl]
    omega
  rw [addRecent, hzero, List.drop_zero]

theorem addRecent_stranger {key : CueKey} {recent : List RecentKey} (how : Departure) (hnew : ∀ r ∈ recent, r.key ≠ key) :
    addRecent key how recent = recent.drop (recent.length - 31) ++ [{ key := key, how := how }] := by
  have hall : (recent.filter fun r => r.key != key) = recent := List.filter_eq_self.mpr fun r hr => by simpa using hnew r hr
  rw [addRecent, hall]
  rfl

theorem filter_length_lt_of_mem {key : CueKey} {recent : List RecentKey} {r : RecentKey} (hr : r ∈ recent) (hkey : r.key = key) :
    (recent.filter fun r => r.key != key).length < recent.length :=
  List.length_filter_lt_length_iff_exists.mpr ⟨r, hr, by simp [hkey]⟩

theorem holds_leave (t : CueTable) (key : CueKey) (how : Departure) : (t.leave key how).holds key = false := by
  simp [CueTable.holds, CueTable.leave]

/-- Settles O39: the recent-key list after a key has left the table. -/
theorem leavingJoinsTheRecentKeys : Obligations.LeavingJoinsTheRecentKeys := by
  intro t key how hlength hnodup
  refine ⟨List.getLast?_concat .., length_addRecent_le key how t.recent, nodup_addRecent key how hnodup, leftBy_leave t key how,
    holds_leave t key how, ?_, rfl, fun hold => ?_, fun hnew hroom => ?_, fun hnew hfull => ?_⟩
  · exact List.filter_congr fun e _ => by simp [bne, beq_eq_decide]
  · obtain ⟨r, hr, hkey⟩ := leftBy_ne_none.mp hold
    refine (addRecent_room how ?_).trans (congrArg (· ++ _) (List.filter_congr fun e _ => by simp [bne, beq_eq_decide]))
    exact (filter_length_lt_of_mem hr hkey).trans_le hlength
  · refine (addRecent_stranger how (leftBy_eq_none.mp hnew)).trans (congrArg (· ++ _) ?_)
    rw [show t.recent.length - 31 = 0 by omega, List.drop_zero]
  · refine (addRecent_stranger how (leftBy_eq_none.mp hnew)).trans (congrArg (· ++ _) ?_)
    rw [hfull]
    exact List.drop_one

/-! ## Records and serials (R33 to R41) -/

/-- Where an entry is placed: after every entry not farther ahead, before the first that is (R29). -/
theorem placeEntry_split (dist : Time → Nat) (e : HeldEntry) (held : List HeldEntry) :
    ∃ front back, held = front ++ back ∧ placeEntry dist e held = front ++ [e] ++ back
      ∧ (∀ h ∈ front, dist h.fire ≤ dist e.fire) ∧ ∀ h, back.head? = some h → dist e.fire < dist h.fire := by
  induction held with
  | nil => exact ⟨[], [], rfl, rfl, by simp, by simp⟩
  | cons h rest ih =>
    rw [placeEntry]
    by_cases hnear : dist h.fire ≤ dist e.fire
    · obtain ⟨front, back, hheld, hplaced, hfront, hback⟩ := ih
      rw [if_pos hnear, hplaced, hheld]
      exact ⟨h :: front, back, rfl, rfl, by simpa using ⟨hnear, hfront⟩, hback⟩
    · rw [if_neg hnear]
      refine ⟨[], h :: rest, rfl, rfl, by simp, fun g hg => ?_⟩
      obtain rfl : h = g := by simpa using hg
      omega

/-- An entry stepped over on this tick stands at distance 0 (R29, log 18). -/
theorem orderDistance_eq (s : State) (time : Time) :
    s.orderDistance time = if s.tb.stepped = some time then 0 else ahead time s.shared := by
  unfold State.orderDistance
  rw [reaches_eq]
  by_cases hstepped : s.tb.stepped = some time
  · simp [hstepped]
  · by_cases hnow : time = s.shared
    · simp [hnow, ahead]
    · simp [hnow, hstepped]

/-- The shared time the tick ends with (R61, log 32). -/
theorem tickShared_of_step (s : State) :
    s.tickShared = if s.slewDue = true ∧ 0 < s.tb.correction then s.shared + 1 else s.shared := by
  unfold State.tickShared
  refine if_congr ?_ rfl rfl
  simp only [State.slewDue, Bool.and_eq_true, Bool.or_eq_true, decide_eq_true_eq, bne_iff_ne]
  exact ⟨fun ⟨hmark, hpos⟩ => ⟨⟨hmark, .inl (by omega)⟩, hpos⟩, fun ⟨⟨hmark, _⟩, hpos⟩ => ⟨hmark, hpos⟩⟩

theorem appendReceipt_eq (key : CueKey) (v : Verdict) (s : State) : appendReceipt key v s = s.receipted key v := rfl

theorem settleRecord_not_held {s : State} {origin : StationNo} {r : CueRecord} (path : InstallPath)
    (h : s.installVerdict { origin := origin, serial := r.serial } r.spec ≠ .held) : settleRecord path origin r s = s := by
  unfold settleRecord
  split
  · next hv _ => exact absurd hv h
  · rfl

theorem settleRecord_held {s : State} {origin : StationNo} {r : CueRecord} {action : HeldAction} (path : InstallPath)
    (h : s.installVerdict { origin := origin, serial := r.serial } r.spec = .held) (haction : r.spec.heldAction = some action) :
    settleRecord path origin r s = settleHeld path { origin := origin, serial := r.serial } r.spec action s := by
  rw [settleRecord, h, haction]

/-- A HELD record whose fire time is still to come is placed (R35). -/
theorem settleHeld_ahead {s : State} {r : CueSpec} {fire : Time} (path : InstallPath) (key : CueKey) (action : HeldAction)
    (hfire : r.fire = some fire) (hahead : fire ≠ s.shared) : settleHeld path key r action s = placeHeld path key r action fire s := by
  rw [settleHeld, hfire]
  exact if_neg (mt (isDue_iff _ _).mp (mt (ahead_eq_zero_iff _ _).mp hahead))

/-- A HELD record that is due, or that has no fire time, fires at install (R36). -/
theorem settleHeld_now {s : State} {r : CueSpec} (path : InstallPath) (key : CueKey) (action : HeldAction)
    (hnow : ∀ fire, r.fire = some fire → fire = s.shared) :
    settleHeld path key r action s = fireCue key r.channel action r.report path none r.fire false s := by
  rw [settleHeld]
  cases hfire : r.fire with
  | none => rfl
  | some fire => exact if_pos ((isDue_iff _ _).mpr ((ahead_eq_zero_iff _ _).mpr (hnow fire hfire)))

/-- Settles O38: a record is placed, fires at install or changes nothing, by its verdict; a serial leaves the table. -/
theorem eachRecordIsSettledByItsVerdict : Obligations.EachRecordIsSettledByItsVerdict := by
  refine ⟨fun s path origin r => ⟨settleRecord_not_held path, ?_, ?_, rfl⟩, fun s origin serial => ⟨?_, ?_⟩⟩
  · intro action fire hheld haction hfire hahead
    obtain ⟨front, back, hsplit, hplaced, hfront, hback⟩ := placeEntry_split s.orderDistance {
      key := { origin := origin, serial := r.serial }
      channel := r.spec.channel
      action := action
      report := r.spec.report
      fire := fire
      path := path
      installNo := s.cues.installCount } s.cues.held
    simp only [orderDistance_eq] at hfront hback
    refine ⟨front, back, hsplit, ?_, hfront, hback⟩
    rw [settleRecord_held path hheld haction, settleHeld_ahead path _ action hfire hahead, placeHeld, State.onCues, hplaced]
  · intro action o hheld haction ho hnow
    have horigin : r.spec.fire.getD s.shared = s.shared := by
      cases hfire : r.spec.fire with
      | none => rfl
      | some fire => exact hnow fire hfire
    rw [settleRecord_held path hheld haction, settleHeld_now path _ action hnow, fireCue_output ho, horigin, tickShared_of_step]
  · intro hheld
    rw [takeLineSerial, settleSerial, if_pos hheld, State.withdrawVerdict, if_pos hheld, appendReceipt_eq]
    rfl
  · intro hheld
    have hnot : ¬ s.cues.holds { origin := origin, serial := serial } = true := by simp [hheld]
    have hsettled : settleSerial { origin := origin, serial := serial } s = s := if_neg hnot
    rw [takeLineSerial, hsettled, appendReceipt_eq]
    exact congrArg (fun v => s.receipted { origin := origin, serial := serial } v) (if_neg hnot)

/-! ## The edge watch (R57, R58, R60) -/

/-- The edge a run takes next, its times counted from its origin. -/
theorem takeEdge_eq {o : OutputState} {origin : Time} (h : o.origin = some origin) : o.takeEdge = o.afterEdge origin := by
  unfold OutputState.takeEdge OutputState.afterEdge
  rcases hedge : o.nextEdge with _ | _ | _
  · rfl
  · simp only [h, Option.getD_some]
    exact if_congr (by omega) rfl rfl
  · simp only [h, Option.getD_some]
    rfl

theorem edgeReached_iff {s : State} {c : ChannelNo} {o : OutputState} (ho : s.chan c = .output o)
    (hopen : s.control.station ≠ .prep) (hslew : s.slewDue = false) :
    s.edgeReached c = true ↔ o.run ≠ .idle ∧ ∃ e, o.nextTime = some e ∧ (e = s.shared ∨ s.tb.stepped = some e) := by
  have hopened := (opened_iff s).mpr hopen
  simp only [State.edgeReached, ho, hopened, hslew, Bool.not_false, Bool.true_and, Bool.and_eq_true, bne_iff_ne]
  refine and_congr_right fun _ => ?_
  cases o.nextTime with
  | none => simp
  | some e => simp [reaches_eq]

/-- One edge is taken where the next edge is reached. -/
theorem takeReachedEdge_reached {s : State} {c : ChannelNo} {o : OutputState} {e origin : Time} (ho : s.chan c = .output o)
    (hopen : s.control.station ≠ .prep) (hslew : s.slewDue = false) (hrun : o.run ≠ .idle) (hnext : o.nextTime = some e)
    (hreached : e = s.shared ∨ s.tb.stepped = some e) (horigin : o.origin = some origin) :
    takeReachedEdge c s = setChan c (.output (o.afterEdge origin)) s := by
  rw [takeReachedEdge, ho, ← takeEdge_eq horigin]
  exact if_pos ((edgeReached_iff ho hopen hslew).mpr ⟨hrun, e, hnext, hreached⟩)

/-- No edge is taken where none is reached. -/
theorem takeReachedEdge_not_reached {s : State} {c : ChannelNo} {o : OutputState} (ho : s.chan c = .output o)
    (hopen : s.control.station ≠ .prep) (hslew : s.slewDue = false)
    (hnot : ∀ e, o.nextTime = some e → ¬ (e = s.shared ∨ s.tb.stepped = some e)) : takeReachedEdge c s = s := by
  rw [takeReachedEdge, ho]
  refine if_neg fun hreached => ?_
  obtain ⟨-, e, hnext, he⟩ := (edgeReached_iff ho hopen hslew).mp hreached
  exact hnot e hnext he

/-- A run that has an edge to come after the one it takes goes on, from the same origin. -/
theorem afterEdge_goes_on {o : OutputState} {origin e : Time} (hrun : o.run ≠ .idle) (horigin : o.origin = some origin)
    (h : (o.afterEdge origin).nextTime = some e) :
    (o.afterEdge origin).run ≠ .idle ∧ (o.afterEdge origin).origin = some origin := by
  unfold OutputState.afterEdge at h ⊢
  rcases hedge : o.nextEdge with _ | _ | _
  · exact ⟨hrun, horigin⟩
  · by_cases hlast : o.left ≤ 1
    · simp [hedge, hlast, OutputState.stopped] at h
    · simp only [if_neg hlast]
      exact ⟨hrun, horigin⟩
  · exact ⟨hrun, horigin⟩

theorem setChan_setChan (c : ChannelNo) (x y : Channel) (s : State) : setChan c y (setChan c x s) = setChan c y s := by
  simp [setChan, State.onChans]

/-- Settles O40: the edge watch takes the edge reached, and the one after it when that is reached too. -/
theorem edgeWatchTakesTheEdge : Obligations.EdgeWatchTakesTheEdge := by
  intro s c o e origin reached one ends hopen hslew ho hrun hnext hreached horigin
  have hone : takeReachedEdge c s = setChan c (.output one) s :=
    takeReachedEdge_reached ho hopen hslew hrun hnext hreached horigin
  have hchan : (setChan c (.output one) s).chan c = .output one := by simp
  constructor
  · intro hnot
    refine congrArg Host.Outcome.next ?_
    rw [watchEdges, hone]
    exact takeReachedEdge_not_reached hchan hopen hslew hnot
  · intro e' hnext' hreached'
    obtain ⟨hrun', horigin'⟩ := afterEdge_goes_on hrun horigin hnext'
    refine congrArg Host.Outcome.next ?_
    rw [watchEdges, hone, takeReachedEdge_reached hchan hopen hslew hrun' hnext' hreached' horigin', setChan_setChan]
    rfl

/-! ## Input edges (R71 to R78) -/

theorem matchesEdge_iff (sense : EdgeSense) (level : Bool) : sense.matchesEdge level = true ↔
    (sense = .both ∨ sense = .rising ∧ level = true ∨ sense = .falling ∧ level = false) := by
  cases sense <;> simp [EdgeSense.matchesEdge]

theorem insideWindow_iff (windowEnd : Option Time) (holdoff : Nat) (stamp : Time) : insideWindow windowEnd holdoff stamp = true ↔
    ∃ e, windowEnd = some e ∧ 1 ≤ ahead e stamp ∧ ahead e stamp ≤ holdoff := by
  cases windowEnd <;> simp [insideWindow]

theorem satInc_byte (n : Byte) : satInc n = if n = 255 then 255 else n + 1 := by
  rw [satInc, show (BitVec.allOnes 8 : Byte) = 255 from rfl]
  split
  · next h => exact h
  · rfl

theorem inputEdge_eq {s : State} {c : ChannelNo} {i : InputState} {x : InputSettings} {level : Bool} (hi : s.chan c = .input i)
    (hx : s.inputSettings c = some x) (hedge : i.level = some (!level)) :
    inputEdge c level s = if s.control.station ≠ .prep ∧ x.sense.matchesEdge level = true then
      matchingEdge c x { i with level := some level } level s else setChan c (.input { i with level := some level }) s := by
  simp only [inputEdge, hi, if_pos hedge, testEdge, hx, opened_iff]

/-- A mark leaves for its report and for the outgoing list, or counts as a shared loss (R76 to R78). -/
theorem offerMark_target {share : Share} {target : Target} (h : share.target = some target) (mark : MarkRecord) (s : State) :
    offerMark share mark s = if s.control.station = .active ∧ s.marks.outgoing.length < 12 then
      { s with marks := { s.marks with outgoing := s.marks.outgoing ++ [{ mark := mark, target := target }] } }
    else { s with marks := { s.marks with sharedLoss := satInc s.marks.sharedLoss } } := by
  rw [offerMark, h]
  rfl

theorem reportMark_eq (x : InputSettings) (mark : MarkRecord) (s : State) :
    reportMark x mark s = queueReports (if x.localReport then [.localMark mark] else []) s := by
  rw [reportMark]
  by_cases hlocal : x.localReport = true
  · rw [if_pos hlocal, if_pos hlocal]
    rfl
  · rw [if_neg hlocal, if_neg hlocal]
    rfl

/-- Settles O41: what an input edge and a first level do. -/
theorem inputEdgesWithAndWithoutAMark : Obligations.InputEdgesWithAndWithoutAMark := by
  intro s c i x level hi hx senses alone
  have hsenses : x.sense.matchesEdge level = true ↔ senses := matchesEdge_iff ..
  have hexec : exec (.inputEdge c level) s = .next (inputEdge c level s) := rfl
  refine ⟨fun hedge hopen hmatch hfree => ?_, fun hedge hquiet => ?_, fun hedge hopen hmatch e hwindow hnear hfar => ?_, fun hnone => ?_⟩
  · have hfree' : ¬ insideWindow i.windowEnd x.holdoffTicks s.shared = true := fun hinside => by
      obtain ⟨e, he, hnear, hfar⟩ := (insideWindow_iff _ _ _).mp hinside
      have := hfree e he
      rw [InputSettings.holdoffTicks] at hfar
      omega
    rw [hexec, inputEdge_eq hi hx hedge, if_pos ⟨hopen, hsenses.mpr hmatch⟩, matchingEdge, if_neg hfree', makeMark, reportMark_eq]
    cases hshare : x.share with
    | none => rfl
    | group g =>
      rw [offerMark_target (target := .group g) rfl]
      simp
      rfl
    | all =>
      rw [offerMark_target (target := .all) rfl]
      simp
      rfl
  · rw [hexec, inputEdge_eq hi hx hedge, if_neg fun ⟨hopen, hmatch⟩ => hquiet.elim hopen (absurd (hsenses.mp hmatch))]
    rfl
  · have hinside : insideWindow i.windowEnd x.holdoffTicks s.shared = true :=
      (insideWindow_iff _ _ _).mpr ⟨e, hwindow, hnear, hfar⟩
    rw [hexec, inputEdge_eq hi hx hedge, if_pos ⟨hopen, hsenses.mpr hmatch⟩, matchingEdge, if_pos hinside, satInc_byte]
    rfl
  · refine congrArg Host.Outcome.next ?_
    rw [firstLevel, hi]
    exact if_pos hnone

end Sys2Proof.Machine

/-! Line access: the end of cut wait, the held line, the pending set, and the start of a frame. -/

namespace Sys2Proof.Machine

/-! ## The pending set (R159, R162) -/

/-- A posting whose frame waits: WAITING, and not in transmission. -/
def State.waitsIn (s : State) (p : Posting) : Prop :=
  p.state = .waiting ∧ ∀ f w, s.access.flight = some f → f.kind = .posting p.id w → f.lost = true

theorem waitsIn_iff (s : State) (p : Posting) : (p.state == .waiting && !s.inTransmission p.id) = true ↔ s.waitsIn p := by
  have hnot : (!s.inTransmission p.id) = true ↔ ¬ s.inTransmission p.id = true := by simp
  rw [Bool.and_eq_true, hnot, inTransmission_iff, State.waitsIn, beq_iff_eq]
  refine and_congr_right fun _ => ⟨fun h f w hf hkind => ?_, fun h ⟨f, w, hf, hkind, hlost⟩ => ?_⟩
  · by_contra hlost
    exact h ⟨f, w, hf, hkind, by simpa using hlost⟩
  · rw [h f w hf hkind] at hlost
    cases hlost

/-- The oldest posting whose frame waits (R160). -/
theorem pendingPosting_eq_some {s : State} {p : Posting} (h : s.pendingPosting = some p) :
    ∃ front back, s.post.list = front ++ p :: back ∧ s.waitsIn p ∧ ∀ q ∈ front, ¬ s.waitsIn q := by
  obtain ⟨hp, front, back, hlist, hfront⟩ := List.find?_eq_some_iff_append.mp h
  refine ⟨front, back, hlist, (waitsIn_iff s p).mp hp, fun q hq hwaits => ?_⟩
  have hnot := hfront q hq
  rw [(waitsIn_iff s q).mpr hwaits] at hnot
  cases hnot

theorem pendingPosting_eq_none {s : State} (h : s.pendingPosting = none) : ∀ p ∈ s.post.list, ¬ s.waitsIn p :=
  fun p hp hwaits => List.find?_eq_none.mp h p hp ((waitsIn_iff s p).mpr hwaits)

theorem isMark_iff (f : Flight) : f.isMark = true ↔ ∃ count loss, f.kind = .mark count loss := by
  cases hkind : f.kind <;> simp [Flight.isMark, hkind]

theorem markPending_iff (s : State) : s.markPending = true ↔ s.control.station = .active ∧ s.marks.outgoing ≠ []
    ∧ ∀ f count loss, s.access.flight = some f → f.kind ≠ .mark count loss := by
  have hnone : (!(s.access.flight.any Flight.isMark)) = true
      ↔ ∀ f count loss, s.access.flight = some f → f.kind ≠ .mark count loss := by
    cases hflight : s.access.flight with
    | none => simp
    | some f =>
      have hmark := isMark_iff f
      rw [Option.any_some, Bool.not_eq_true', ← Bool.not_eq_true, hmark]
      exact ⟨fun h g count loss hg hkind => h ⟨count, loss, by rw [Option.some.inj hg, hkind]⟩,
        fun h ⟨count, loss, hkind⟩ => h f count loss rfl hkind⟩
  rw [State.markPending, Bool.and_eq_true, Bool.and_eq_true, hnone, and_assoc]
  simp

theorem receiptsOld_iff (s : State) : s.receiptsOld = true ↔
    ∃ r rest, s.access.receipts = r :: rest ∧ s.beat < 2 * (2 ^ 48 * r.rounds + (s.tb.localTime - r.time).toNat) := by
  unfold State.receiptsOld
  cases s.access.receipts with
  | nil => simp
  | cons r rest =>
    refine ⟨fun h => ⟨r, rest, rfl, of_decide_eq_true h⟩, fun ⟨r', rest', hlist, h⟩ => ?_⟩
    cases hlist
    exact decide_eq_true h

/-- The condition of the receipts BEAT (R159). -/
theorem receiptsCondition_iff (s : State) : s.receiptsCondition = true ↔ s.receiptsBeatHolds := by
  simp only [State.receiptsCondition, Bool.and_eq_true, receiptsOld_iff, State.receiptsBeatHolds, beq_iff_eq, Bool.not_eq_true',
    Option.isNone_iff_eq_none, and_assoc]
  refine and_congr_right fun hactive => and_congr_right fun _ => and_congr_right fun _ => and_congr_right fun _ => ?_
  have hmark : s.access.flight = none → (s.markPending = false ↔ s.marks.outgoing = []) := fun hflight => by
    rw [← Bool.not_eq_true, markPending_iff]
    simp [hactive, hflight]
  constructor
  · rintro ⟨hpending, hflight, hold⟩
    exact ⟨(hmark hflight).mp hpending, hflight, hold⟩
  · rintro ⟨hempty, hflight, hold⟩
    exact ⟨(hmark hflight).mpr hempty, hflight, hold⟩

theorem receiptsBeatPending_iff (s : State) :
    s.receiptsBeatPending = true ↔ s.access.receiptsPending = true ∧ s.receiptsBeatHolds := by
  rw [State.receiptsBeatPending, Bool.and_eq_true, receiptsCondition_iff]

/-! ## Cut wait and the held line (R151, R169, R170) -/

theorem setReference_free {s : State} (ref : FrameEndRef) (h : s.access.condition ≠ .held) :
    setReference ref s = { s with access := { s.access with
      reference := some ref
      condition := .clear
      cutEnd := none } } :=
  congrArg (fun a => { s with access := a }) (if_neg h)

/-- Settles O53: the end of cut wait, and the receipts BEAT that comes to be pending. -/
theorem cutWaitEndsAndReceiptsBeatComes : Obligations.CutWaitEndsAndReceiptsBeatComes := by
  intro s
  refine ⟨fun e hcut hend hphase hwaiting hover => ?_, fun hholds => ?_, fun hnot => ?_⟩
  · have hreached : reachedTime s.now (plusTicks e s.gapTicks) = true := decide_eq_true hover
    have hwait : s.cutWaitOver = true := by simp [State.cutWaitOver, hcut, hend, hphase, hwaiting, hreached]
    have hfree : s.access.condition ≠ .held := by simp [hcut]
    refine congrArg Host.Outcome.next ?_
    simp only [endCutWait, hend, if_pos hwait, setReference_free _ hfree]
    rfl
  · exact congrArg Host.Outcome.next (if_pos ((receiptsCondition_iff s).mpr hholds))
  · exact congrArg Host.Outcome.next (if_neg (mt (receiptsCondition_iff s).mp hnot))

theorem satInc_word (n : BitVec 16) : satInc n = if n = 65535 then 65535 else n + 1 := by
  rw [satInc, show (BitVec.allOnes 16 : BitVec 16) = 65535 from rfl]
  split
  · next h => exact h
  · rfl

/-- Settles O54: the held line. -/
theorem heldLineIsFoundAndEnds : Obligations.HeldLineIsFoundAndEnds := by
  intro s found ended
  refine ⟨fun hnew hidle => ?_, fun hnew hsending => ?_, fun hfound hheld => ?_, fun hfound hfree => ?_⟩ <;>
    refine congrArg Host.Outcome.next ?_
  · have hnot : ¬ (s.onSig fun x => { x with found := true, runLength := 0 }).access.flight.isSome = true := by simp [hidle]
    rw [lineHeld, if_neg (by simp [hnew]), beginHeld, if_neg hnot, ← satInc_word]
    rfl
  · have hsome : (s.onSig fun x => { x with found := true, runLength := 0 }).access.flight.isSome = true := by
      simpa [Option.isSome_iff_ne_none] using hsending
    rw [lineHeld, if_neg (by simp [hnew]), beginHeld, if_pos hsome]
    rfl
  · rw [heldEnd, if_pos hfound]
    exact congrArg (fun a => { ended with access := a }) (if_pos hheld)
  · rw [heldEnd, if_pos hfound]
    exact congrArg (fun a => { ended with access := a }) (if_neg hfree)

/-! ## The start of a frame (R154 to R163) -/

theorem slotBeginning_iff (s : State) (ref : FrameEndRef) (k : Nat) : s.slotBeginning ref = some k ↔
    2 ^ 48 * ref.rounds + (s.tb.localTime - ref.endTime).toNat = (3 + k) * (10 * ticksPerBit s.sig.rate) := by
  have hpos : 0 < 10 * ticksPerBit s.sig.rate := by
    have := ticksPerBit_pos s.sig.rate
    omega
  have hslot : s.slotBeginning ref = if elapsedOver ref.rounds s.now ref.endTime % s.ct = 0
      ∧ 3 * s.ct ≤ elapsedOver ref.rounds s.now ref.endTime then
      some (elapsedOver ref.rounds s.now ref.endTime / s.ct - 3) else none := rfl
  have hct : s.ct = 10 * ticksPerBit s.sig.rate := rfl
  have hsince : elapsedOver ref.rounds s.now ref.endTime = 2 ^ 48 * ref.rounds + (s.tb.localTime - ref.endTime).toNat := rfl
  rw [hslot, hct, hsince]
  generalize 10 * ticksPerBit s.sig.rate = ct at *
  generalize 2 ^ 48 * ref.rounds + (s.tb.localTime - ref.endTime).toNat = since
  constructor
  · intro h
    obtain ⟨⟨hmod, hle⟩, hk⟩ : (since % ct = 0 ∧ 3 * ct ≤ since) ∧ since / ct - 3 = k := by simpa using h
    have hthree : 3 ≤ since / ct := (Nat.le_div_iff_mul_le hpos).mpr hle
    rw [← hk, Nat.add_sub_cancel' hthree, Nat.div_mul_cancel (Nat.dvd_of_mod_eq_zero hmod)]
  · rintro rfl
    have hdiv : (3 + k) * ct / ct = 3 + k := Nat.mul_div_cancel _ hpos
    rw [if_pos ⟨Nat.mul_mod_left .., Nat.mul_le_mul_right ct (Nat.le_add_right 3 k)⟩, hdiv, Nat.add_sub_cancel_left]

theorem mayStart_iff (s : State) : s.mayStart = true ↔ (s.control.station = .active ∨ s.control.station = .closing)
    ∧ s.access.condition = .clear ∧ s.access.flight = none ∧ s.ownSlotBegins = true ∧ s.sig.history.head? ≠ some false
    ∧ ¬ (s.sig.phase = .startCheck ∧ s.sig.startTick = s.tb.localTime) := by
  have hedge : (!s.edgeThisTick) = true ↔ ¬ (s.sig.phase = .startCheck ∧ s.sig.startTick = s.tb.localTime) := by
    simp [State.edgeThisTick, State.now, imp_iff_not_or]
  rw [State.mayStart, Bool.and_eq_true, hedge]
  simp [State.readsHigh, and_assoc]

theorem frameStart_eq_self {s : State} (h : s.starting = none) : frameStart s = s := by rw [frameStart, h]

theorem starting_eq_none {s : State} (h : s.mayStart = false ∨ s.chosen = none) : s.starting = none := by
  rw [State.starting]
  obtain hnot | hnone := h
  · exact if_neg (by simp [hnot])
  · rw [hnone, ite_self]

/-- What a started frame leaves (R163). -/
theorem startFrame_eq (kind : FlightKind) (s : State) : startFrame kind s = { s with
    tb := { s.tb with
      departure := if kind = .leavingBeat ∨ kind = .dueBeat ∨ kind = .receiptsBeat then some s.shared else none
      arrival := none }
    frames := { s.frames with assembly := none, copy := some (s.frameCopy kind) }
    access := { s.access with
      leavingPending := if kind = .leavingBeat then false else s.access.leavingPending
      due := if kind = .dueBeat then .inFlight else s.access.due
      receiptsPending := if kind = .receiptsBeat then false else s.access.receiptsPending
      condition := .sending
      flight := some {
        kind := kind
        collisions := s.countOf kind
        lost := false
        receipts := min 8 s.access.receipts.length
        start := s.tb.localTime } }
    sig := { s.sig with
      phase := .echo
      votes := []
      bits := []
      noisy := false
      waiting := none
      echoIndex := 0
      driving := true } } := by
  have htrailer : s.trailer.length = min 8 s.access.receipts.length := List.length_take
  unfold startFrame
  rw [State.flightOf, htrailer]
  cases kind <;> rfl

/-- The MARK frame carries the unbroken run from the head, up to 6 (R79). -/
theorem carried_eq {m : MarkSide} {h : OutMark} {rest : List OutMark} (hm : m.outgoing = h :: rest) :
    ∃ run back, m.outgoing = run ++ back ∧ m.carried = run.take 6 ∧ (∀ x ∈ run, x.target = h.target)
      ∧ ∀ x, back.head? = some x → x.target ≠ h.target := by
  refine ⟨m.outgoing.takeWhile fun x => x.target == h.target, m.outgoing.dropWhile fun x => x.target == h.target,
    List.takeWhile_append_dropWhile.symm, ?_, fun x hx => by simpa using List.mem_takeWhile_imp hx, fun x hx => ?_⟩
  · rw [MarkSide.carried, hm]
    rfl
  · have hnot := List.head?_dropWhile_not (fun x : OutMark => x.target == h.target) m.outgoing
    rw [hx] at hnot
    simpa using hnot

/-- Settles O49: a frame starts at the beginning of an own slot and nowhere else; the frame chosen. -/
theorem frameStartsInAnOwnedSlot : Obligations.FrameStartsInAnOwnedSlot := by
  refine ⟨fun s ref k kind hstation hclear hflight href hslot howner hhigh hedge hchosen => ?_, fun s t hphase hstart => ?_,
    fun s hnot => ?_, fun s => ?_, fun s => ?_⟩
  · have hown : s.ownSlotBegins = true := (ownSlotBegins_iff s).mpr ⟨ref, k, href, (slotBeginning_iff s ref k).mpr hslot, howner⟩
    have hmay : s.mayStart = true := (mayStart_iff s).mpr ⟨hstation, hclear, hflight, hown, hhigh, hedge⟩
    refine congrArg Host.Outcome.next ?_
    rw [frameStart, State.starting, if_pos hmay, hchosen]
    exact startFrame_eq kind s
  · obtain rfl : startEdge s = t := Host.Outcome.next.inj hstart
    have hopened : startEdge s = openCheck (deliverWaiting s) := if_pos hphase
    refine congrArg Host.Outcome.next (frameStart_eq_self (starting_eq_none (.inl ?_)))
    rw [← Bool.not_eq_true, mayStart_iff, hopened]
    exact fun ⟨_, _, _, _, _, hedge⟩ => hedge ⟨rfl, rfl⟩
  · refine congrArg Host.Outcome.next (frameStart_eq_self (starting_eq_none ?_))
    by_cases hchosen : s.chosen = none
    · exact .inr hchosen
    · refine .inl ?_
      rw [← Bool.not_eq_true, mayStart_iff]
      rintro ⟨-, hclear, hflight, hown, hhigh, -⟩
      obtain ⟨ref, k, href, hslot, howner⟩ := (ownSlotBegins_iff s).mp hown
      obtain h | h | h | h | h := hnot
      · exact h hclear
      · exact h hflight
      · exact hhigh h
      · exact hchosen h
      · exact h ref k href ((slotBeginning_iff s ref k).mp hslot) howner
  · refine ⟨?_, ?_, ?_, ?_, ?_, ?_, ?_, ?_⟩ <;> intros <;> simp_all [State.chosen, Posting.flightKind, State.markFlight]
  · intro waits
    refine ⟨fun p => pendingPosting_eq_some, pendingPosting_eq_none, markPending_iff s, receiptsBeatPending_iff s, rfl, rfl,
      fun _ _ => rfl, rfl, fun p w hp => ?_, fun hempty => ?_, fun h rest => carried_eq⟩
    · simp [State.countOf, hp]
    · rw [MarkSide.carried, hempty]

end Sys2Proof.Machine

/-! The echo check: a frame sent whole, and what its kind takes of it. -/

namespace Sys2Proof.Machine

/-! ## What the end of a frame leaves of the line (R151, R164 to R167) -/

/-- Two states that stand alike at the end of a transmission. -/
structure SameLine (u t : State) : Prop where
  flight : t.access.flight = u.access.flight
  copy : t.frames.copy = u.frames.copy
  sequence : t.frames.sequence = u.frames.sequence
  departure : t.tb.departure = u.tb.departure
  reference : t.access.reference = u.access.reference
  condition : t.access.condition = u.access.condition
  cutEnd : t.access.cutEnd = u.access.cutEnd
  collisions : t.access.collisions = u.access.collisions
  drops : t.access.drops = u.access.drops
  sig : t.sig = u.sig

theorem SameLine.refl (u : State) : SameLine u u := by constructor <;> rfl

theorem SameLine.trans {u v w : State} (h : SameLine u v) (h' : SameLine v w) : SameLine u w where
  flight := h'.flight.trans h.flight
  copy := h'.copy.trans h.copy
  sequence := h'.sequence.trans h.sequence
  departure := h'.departure.trans h.departure
  reference := h'.reference.trans h.reference
  condition := h'.condition.trans h.condition
  cutEnd := h'.cutEnd.trans h.cutEnd
  collisions := h'.collisions.trans h.collisions
  drops := h'.drops.trans h.drops
  sig := h'.sig.trans h.sig

theorem sameLine_reachPrep (cause : Cause) {u : State} (h : u.tb.departure = none) : SameLine u (reachPrep cause u) := by
  obtain ⟨htb, -, -, -, -, -, hframes, haccess, -, hsig, -⟩ := reachPrep_blocks cause u
  constructor
  case sig => exact hsig
  case departure => rw [htb, h]; rfl
  all_goals first | rw [hframes] | rw [haccess]; rfl

theorem finishPosting_access {u : State} (id : Byte) (o : PostOutcome) (h : u.access.flight = none) :
    (finishPosting id o u).access = u.access := by
  unfold finishPosting
  split
  · rfl
  · show ({ u.access with flight := u.access.flight.map (Flight.losePosting id) } : LineAccess) = u.access
    rw [h, Option.map_none, ← h]

theorem completionTest_access {u : State} (id : Byte) (h : u.access.flight = none) :
    (completionTest id u).access = u.access := by
  unfold completionTest
  split
  · rfl
  · split
    · exact finishPosting_access _ _ h
    · rfl

theorem sentNotice_access {u : State} (id : Byte) (h : u.access.flight = none) : (sentNotice id u).access = u.access := by
  unfold sentNotice
  split
  · rfl
  · rw [completionTest_access _ (by simpa using h)]
    simp

theorem sameLine_of_access {u t : State} (haccess : t.access = u.access) (hframes : t.frames = u.frames) (htb : t.tb = u.tb)
    (hsig : t.sig = u.sig) : SameLine u t := by
  constructor <;> simp [haccess, hframes, htb, hsig]

/-- The end of its kind leaves the line as it stands. -/
theorem sameLine_sentEffect (f : Flight) {u : State} (hflight : u.access.flight = none) (hdeparture : u.tb.departure = none) :
    SameLine u (sentEffect f u) := by
  unfold sentEffect
  cases f.kind with
  | leavingBeat =>
    dsimp only
    split
    · exact sameLine_reachPrep _ hdeparture
    · exact .refl u
  | dueBeat =>
    dsimp only
    split
    · exact .refl u
    · constructor <;> rfl
  | posting id w =>
    dsimp only
    split
    · exact .refl u
    · exact sameLine_of_access (sentNotice_access id hflight) (by simp) (by simp) (by simp)
  | mark count loss => constructor <;> rfl
  | receiptsBeat =>
    dsimp only
    split
    · exact .refl u
    · constructor <;> rfl

/-- Only the leaving BEAT's end reaches the receipts that remain and the station state. -/
theorem sentEffect_receipts {f : Flight} {u : State} (hflight : u.access.flight = none) (hkind : f.kind ≠ .leavingBeat) :
    (sentEffect f u).access.receipts = u.access.receipts ∧ (sentEffect f u).control = u.control := by
  unfold sentEffect
  cases hf : f.kind with
  | leavingBeat => exact absurd hf hkind
  | dueBeat | receiptsBeat =>
    dsimp only
    split <;> exact ⟨rfl, rfl⟩
  | posting id w =>
    dsimp only
    split
    · exact ⟨rfl, rfl⟩
    · exact ⟨by rw [sentNotice_access id hflight], by simp⟩
  | mark count loss => exact ⟨rfl, rfl⟩

/-! ## A frame sent whole (R165) -/

/-- The state in which the kind of a frame sent whole takes its end. -/
def State.sentBefore (f : Flight) (s : State) : State := setReference s.ownReference (countSent f (endTransmission s))

theorem sentWhole_eq (f : Flight) (s : State) : sentWhole f s = sentEffect f (s.sentBefore f) := rfl

theorem sentBefore_condition (f : Flight) {s : State} (h : s.access.condition ≠ .held) :
    (s.sentBefore f).access.condition = .clear := by
  rw [State.sentBefore, setReference_free (s := countSent f (endTransmission s)) _ h]

/-- The line access unit where the kind of a frame sent whole takes its end. -/
theorem sentBefore_access (f : Flight) (s : State) :
    (s.sentBefore f).access.flight = none ∧ (s.sentBefore f).access.reference = some s.ownReference
    ∧ (s.sentBefore f).access.receipts = s.access.receipts.drop f.receipts
    ∧ (s.sentBefore f).access.collisions = s.access.collisions ∧ (s.sentBefore f).access.drops = s.access.drops
    ∧ (s.sentBefore f).access.due = s.access.due ∧ (s.sentBefore f).access.dueCount = s.access.dueCount
    ∧ (s.sentBefore f).access.receiptsPending = s.access.receiptsPending
    ∧ (s.sentBefore f).access.receiptsCount = s.access.receiptsCount := by
  unfold State.sentBefore setReference State.onAccess
  dsimp only
  split <;> exact ⟨rfl, rfl, rfl, rfl, rfl, rfl, rfl, rfl, rfl⟩

/-- The station reaches PREP where the leaving BEAT ends in CLOSING (R172, R202). -/
theorem reachPrep_of_leaving {s u : State} {k : ConfigRecord} (cause : Cause) (hconfig : s.control.config = some k)
    (htb : u.tb = { s.tb with departure := none }) (hchans : u.chans = s.chans) (hmarks : u.marks = s.marks)
    (hroster : u.roster = s.roster) (hpost : u.post = s.post) (hown : u.sig.own = s.sig.own) (hcontrol : u.control = s.control) :
    s.clearedFrom k cause (reachPrep cause u) := by
  have hconfig' : u.control.config = some k := by rw [hcontrol, hconfig]
  have h := reachPrep_clearedFrom cause hconfig' (t := reachPrep cause u) rfl rfl rfl rfl rfl rfl rfl rfl
  simpa only [State.clearedFrom, State.chan, htb, hchans, hmarks, hroster, hpost, hown] using h

/-- A posting whose frame was sent, before its completion is tested (R113). -/
def Posting.sentAt (now : Time) (beat : Nat) (p : Posting) : Posting :=
  { p with
    sent := p.sent + 1
    state := .awaiting
    windowEnd := some (now + BitVec.ofNat 48 (2 * beat))
    collisions := 0 }

theorem sentNotice_eq {s : State} {p : Posting} (h : s.posting? p.id = some p) : sentNotice p.id s =
    if p.answered then finishPosting p.id .complete (setPosting (p.sentAt s.tb.localTime s.beat) s)
    else setPosting (p.sentAt s.tb.localTime s.beat) s := by
  have hset : (setPosting (p.sentAt s.tb.localTime s.beat) s).posting? p.id = some (p.sentAt s.tb.localTime s.beat) :=
    posting?_setPosting s p (p.sentAt s.tb.localTime s.beat) rfl h
  have hnotice : sentNotice p.id s = completionTest p.id (setPosting (p.sentAt s.tb.localTime s.beat) s) := by
    rw [sentNotice, h]
    rfl
  have hsent : 1 ≤ (p.sentAt s.tb.localTime s.beat).sent := Nat.le_add_left 1 p.sent
  rw [hnotice, completionTest, hset]
  exact if_congr (and_iff_right hsent) rfl rfl

/-- A posting written back and then taken out leaves the list without it. -/
theorem eraseP_map_id {l : List Posting} (q : Posting) (hnodup : (l.map Posting.id).Nodup) {p : Posting} (hp : p ∈ l)
    (hq : q.id = p.id) : (l.map fun x => if x.id == q.id then q else x).eraseP (fun x => x.id = q.id)
      = l.eraseP fun x => x.id = p.id := by
  obtain ⟨front, rest, rfl⟩ := List.append_of_mem hp
  rw [List.map_append, List.map_cons, List.nodup_middle, List.nodup_cons, List.mem_append] at hnodup
  obtain ⟨hnot, -⟩ := hnodup
  have hfront : ∀ x ∈ front, x.id ≠ p.id := fun x hx heq => hnot (.inl (heq ▸ List.mem_map_of_mem hx))
  have hrest : ∀ x ∈ rest, x.id ≠ p.id := fun x hx heq => hnot (.inr (heq ▸ List.mem_map_of_mem hx))
  have hmap : (front ++ p :: rest).map (fun x => if x.id == q.id then q else x) = front ++ q :: rest := by
    simpa [hq] using map_id_middle (q := q) hfront hrest
  rw [hmap, eraseP_id_middle hfront, eraseP_id_middle (p := q) (by simpa [hq] using hfront)]

/-- A posting whose frame was sent and whose verdicts are all in leaves the list as COMPLETE (R113, R117). -/
theorem sentNotice_complete {s : State} {p : Posting} (h : s.posting? p.id = some p) (hall : p.allAnswered)
    (hnodup : (s.post.list.map Posting.id).Nodup) :
    (sentNotice p.id s).post.list = s.post.list.eraseP (fun q => q.id = p.id)
    ∧ (sentNotice p.id s).port.queue = s.port.queue ++ [{
      lostBefore := s.port.lost
      body := .postingDone ({ p with sent := p.sent + 1 }.doneReport .complete) }] := by
  have hset := posting?_setPosting s p (p.sentAt s.tb.localTime s.beat) rfl h
  have hfound := finishPosting_found (p := p.sentAt s.tb.localTime s.beat) .complete hset
  rw [sentNotice_eq h, if_pos ((answered_iff p).mpr hall)]
  refine ⟨(congrArg (fun u : State => u.post.list) hfound).trans ?_, (congrArg (fun u : State => u.port.queue) hfound).trans rfl⟩
  exact eraseP_map_id (p.sentAt s.tb.localTime s.beat) hnodup (posting?_mem h).1 rfl

theorem sentNotice_awaits {s : State} {p : Posting} (h : s.posting? p.id = some p) (hnot : ¬ p.allAnswered) :
    (sentNotice p.id s).posting? p.id = some (p.sentAt s.tb.localTime s.beat) ∧ (sentNotice p.id s).port = s.port := by
  rw [sentNotice_eq h, if_neg (mt (answered_iff p).mp hnot)]
  exact ⟨posting?_setPosting s p (p.sentAt s.tb.localTime s.beat) rfl h, rfl⟩

theorem echoCheck_eq {s : State} {f : Flight} {chars : List Byte} {sent : Byte} (hflight : s.access.flight = some f)
    (hcopy : s.frames.copy = some chars) (hsent : chars[s.sig.echoIndex]? = some sent) (back : Option ReadBack) :
    echoCheck back s = if echoPasses sent back then
        if s.sig.echoIndex + 1 < chars.length then
          s.onSig fun x => { x with echoIndex := x.echoIndex + 1, votes := [], bits := [], noisy := false }
        else sentWhole f s
      else collide f s := by
  simp only [echoCheck, hflight, hcopy, hsent]

theorem sub_saturating (a b : Byte) : (byte (a.toNat - b.toNat)).toNat = a.toNat - b.toNat := by
  have := a.isLt
  rw [byte, BitVec.toNat_ofNat]
  exact Nat.mod_eq_of_lt (by omega)

/-- Settles O51: an echo check that passes, within a frame and at its last character. -/
theorem echoCheckPasses : Obligations.EchoCheckPasses := by
  intro s f chars n back hflight hcopy hindex hframing hsent
  subst hindex
  have hpass : echoPasses back.value (some back) = true := by simp [echoPasses, hframing]
  have hcheck := echoCheck_eq hflight hcopy hsent (some back)
  rw [if_pos hpass] at hcheck
  refine ⟨fun hmore => congrArg Host.Outcome.next (hcheck.trans (if_pos hmore)), fun hlast => ?_⟩
  rw [if_neg (by omega), sentWhole_eq] at hcheck
  obtain ⟨uflight, ureference, ureceipts, ucollisions, udrops, udue, udueCount, upending, ucount⟩ := sentBefore_access f s
  have hline := sameLine_sentEffect f (u := s.sentBefore f) uflight rfl
  have hsig : (sentEffect f (s.sentBefore f)).sig = s.sig.endEcho := hline.sig
  refine ⟨_, congrArg Host.Outcome.next hcheck, by rw [State.lde, hsig]; rfl, by rw [hsig]; rfl, hline.flight.trans uflight,
    hline.copy, hline.departure, hline.sequence, hline.reference.trans ureference,
    fun hheld => hline.condition.trans (sentBefore_condition f hheld), hline.collisions.trans ucollisions,
    hline.drops.trans udrops, fun hkind => ?_, fun hkind hlost => ?_, fun hkind hlost => ?_, fun count loss hkind => ?_,
    fun p w hkind hlost hp hnot => ?_, fun p w hkind hlost hp hall hnodup => ?_, fun hlost hkind => ?_,
    fun k hkind hclosing hconfig => ?_⟩
  · obtain ⟨hreceipts, hcontrol⟩ := sentEffect_receipts (u := s.sentBefore f) uflight hkind
    exact ⟨hreceipts.trans ureceipts, hcontrol⟩
  · simp only [sentEffect, hkind, hlost]
    exact ⟨rfl, congrArg (fun d => if d = DueBeat.renewed then DueBeat.pending else DueBeat.none) udue⟩
  · simp only [sentEffect, hkind, hlost]
    exact ⟨rfl, receiptsCondition_iff _⟩
  · simp only [sentEffect, hkind]
    exact ⟨rfl, rfl, sub_saturating s.marks.sharedLoss loss⟩
  · simp only [sentEffect, hkind, hlost]
    exact sentNotice_awaits (s := s.sentBefore f) hp hnot
  · simp only [sentEffect, hkind, hlost]
    exact sentNotice_complete (s := s.sentBefore f) hp hall hnodup
  · have hself : sentEffect f (s.sentBefore f) = s.sentBefore f := by
      rcases hkind with hk | hk | ⟨id, w, hk⟩ <;> simp [sentEffect, hk, hlost]
    rw [hself]
    exact ⟨udue, udueCount, upending, ucount, rfl, rfl⟩
  · have hprep : sentEffect f (s.sentBefore f) = reachPrep .left (s.sentBefore f) := by
      simp only [sentEffect, hkind]
      exact if_pos hclosing
    rw [hprep]
    exact ⟨reachPrep_of_leaving .left hconfig rfl rfl rfl rfl rfl rfl rfl, fun hroom => reachPrep_bodies .left hroom⟩

end Sys2Proof.Machine

/-! A collision: the release, the frame cut short, and the frame dropped at its eighth. -/

namespace Sys2Proof.Machine

/-! ## What is queued stays in its place -/

theorem queueReport_prefix (b : ReportBody) (s : State) : s.port.queue <+: (queueReport b s).port.queue := by
  unfold queueReport
  split
  · exact List.prefix_append ..
  · exact List.prefix_rfl

theorem queueReports_prefix (bs : List ReportBody) (s : State) : s.port.queue <+: (queueReports bs s).port.queue := by
  induction bs generalizing s with
  | nil => exact List.prefix_rfl
  | cons b bs ih => exact (queueReport_prefix b s).trans (ih _)

theorem reachPrep_prefix (cause : Cause) (s : State) : s.port.queue <+: (reachPrep cause s).port.queue :=
  (queueReports_prefix (soloReports s.tb.tbState) (clearForPrep s)).trans (queueReport_prefix _
    ((queueReports (soloReports s.tb.tbState) (clearForPrep s)).onControl fun c => { c with station := .prep, cause := some cause }))

theorem finishPosting_prefix (id : Byte) (o : PostOutcome) (s : State) :
    s.port.queue <+: (finishPosting id o s).port.queue := by
  unfold finishPosting
  split
  · exact List.prefix_rfl
  · exact List.prefix_append ..

theorem dropEffect_prefix (f : Flight) (s : State) : s.port.queue <+: (dropEffect f s).port.queue := by
  unfold dropEffect
  cases f.kind with
  | leavingBeat =>
    dsimp only
    split
    · exact reachPrep_prefix ..
    · exact List.prefix_rfl
  | posting id w =>
    dsimp only
    split
    · exact List.prefix_rfl
    · exact finishPosting_prefix ..
  | dueBeat | receiptsBeat =>
    dsimp only
    split <;> exact List.prefix_rfl
  | mark => exact List.prefix_rfl

/-! ## The line after a collision (R166) -/

theorem sameLine_cutEffect (f : Flight) (count : Nat) (u : State) : SameLine u (cutEffect f count u) := by
  unfold cutEffect
  cases f.kind with
  | leavingBeat | dueBeat | receiptsBeat =>
    dsimp only
    split <;> constructor <;> rfl
  | posting id w =>
    dsimp only
    split
    · exact .refl u
    · split
      · exact sameLine_of_access (by simp) (by simp) (by simp) (by simp)
      · exact .refl u
  | mark => constructor <;> rfl

theorem sameLine_dropEffect (f : Flight) {u : State} (hflight : u.access.flight = none) (hdeparture : u.tb.departure = none) :
    SameLine u (dropEffect f u) := by
  unfold dropEffect
  cases f.kind with
  | leavingBeat =>
    dsimp only
    split
    · exact sameLine_reachPrep _ hdeparture
    · exact .refl u
  | dueBeat | receiptsBeat =>
    dsimp only
    split
    · exact .refl u
    · constructor <;> rfl
  | posting id w =>
    dsimp only
    split
    · exact .refl u
    · exact sameLine_of_access (finishPosting_access id _ hflight) (by simp) (by simp) (by simp)
  | mark => constructor <;> rfl

/-- Only the leaving BEAT's drop in CLOSING reaches the receipt list. -/
theorem dropEffect_receipts {f : Flight} {u : State} (hflight : u.access.flight = none)
    (hkind : f.kind ≠ .leavingBeat ∨ u.control.station ≠ .closing) :
    (dropEffect f u).access.receipts = u.access.receipts := by
  unfold dropEffect
  cases hf : f.kind with
  | leavingBeat =>
    obtain hkind | hstation := hkind
    · exact absurd hf hkind
    · dsimp only
      rw [if_neg hstation]
  | dueBeat | receiptsBeat =>
    dsimp only
    split <;> rfl
  | posting id w =>
    dsimp only
    split
    · rfl
    · rw [finishPosting_access id _ hflight]
  | mark => rfl

/-- Where a dropped frame's kind takes its end: its TROUBLE report queued (R167). -/
def State.dropBefore (f : Flight) (s : State) : State :=
  queueReport f.kind.troubleReport ((release f s).onAccess fun a => { a with drops := satInc a.drops })

theorem dropBefore_blocks (f : Flight) (s : State) :
    (s.dropBefore f).tb = { s.tb with departure := none } ∧ (s.dropBefore f).frames = { s.frames with copy := none }
    ∧ (s.dropBefore f).sig = s.sig.endEcho ∧ (s.dropBefore f).chans = s.chans ∧ (s.dropBefore f).marks = s.marks
    ∧ (s.dropBefore f).roster = s.roster ∧ (s.dropBefore f).post = s.post ∧ (s.dropBefore f).control = s.control
    ∧ (s.dropBefore f).access = { s.access with
      flight := none
      collisions := satInc s.access.collisions
      condition := .cutWait
      cutEnd := some (f.start + BitVec.ofNat 48 ((s.sig.echoIndex + 1) * (10 * ticksPerBit s.sig.rate)))
      drops := satInc s.access.drops } := by
  rw [State.dropBefore, queueReport_onPort]
  exact ⟨rfl, rfl, rfl, rfl, rfl, rfl, rfl, rfl, rfl⟩

theorem dropBefore_bodies (f : Flight) {s : State} (h : s.reportSum < 48) :
    (s.dropBefore f).port.queue.map Report.body = s.port.queue.map Report.body ++ [f.kind.troubleReport] :=
  queueReport_bodies _ (s := (release f s).onAccess fun a => { a with drops := satInc a.drops }) h

theorem dropBefore_sum (f : Flight) {s : State} (h : s.reportSum < 48) : (s.dropBefore f).reportSum = s.reportSum + 1 :=
  queueReport_length _ (s := (release f s).onAccess fun a => { a with drops := satInc a.drops }) h

theorem collide_cut {f : Flight} (s : State) (h : f.collisions + 1 < 8) :
    collide f s = cutEffect f (f.collisions + 1) (release f s) :=
  if_neg (show ¬ 8 ≤ f.collisions + 1 by omega)

theorem collide_drop {f : Flight} (s : State) (h : 8 ≤ f.collisions + 1) : collide f s = dropEffect f (s.dropBefore f) := if_pos h

/-- Cut or dropped, a collision leaves the line in CUT WAIT with nothing in flight (R151, R166). -/
theorem collide_line (f : Flight) (s : State) :
    (collide f s).sig = s.sig.endEcho ∧ (collide f s).access.flight = none ∧ (collide f s).frames.copy = none
    ∧ (collide f s).tb.departure = none ∧ (collide f s).frames.sequence = s.frames.sequence
    ∧ (collide f s).access.collisions = satInc s.access.collisions ∧ (collide f s).access.reference = s.access.reference
    ∧ (collide f s).access.condition = .cutWait
    ∧ (collide f s).access.cutEnd
      = some (f.start + BitVec.ofNat 48 ((s.sig.echoIndex + 1) * (10 * ticksPerBit s.sig.rate))) := by
  by_cases hcut : f.collisions + 1 < 8
  · have h := sameLine_cutEffect f (f.collisions + 1) (release f s)
    rw [collide_cut s hcut]
    exact ⟨h.sig, h.flight, h.copy, h.departure, h.sequence, h.collisions, h.reference, h.condition, h.cutEnd⟩
  · obtain ⟨htb, hframes, hsig, -, -, -, -, -, haccess⟩ := dropBefore_blocks f s
    have h := sameLine_dropEffect f (u := s.dropBefore f) (by rw [haccess]) (by rw [htb])
    rw [collide_drop s (by omega)]
    refine ⟨h.sig.trans hsig, h.flight.trans ?_, h.copy.trans ?_, h.departure.trans ?_, h.sequence.trans ?_,
      h.collisions.trans ?_, h.reference.trans ?_, h.condition.trans ?_, h.cutEnd.trans ?_⟩
    all_goals first | rw [haccess] | rw [hframes] | rw [htb]

theorem echoPasses_eq_false {sent : Byte} {back : Option ReadBack} (h : ∀ b, back = some b → b.value ≠ sent ∨ b.framing = true) :
    ¬ echoPasses sent back = true := by
  cases back with
  | none => exact Bool.false_ne_true
  | some b =>
    simp only [echoPasses, Bool.and_eq_true, beq_iff_eq, Bool.not_eq_true']
    rintro ⟨hvalue, hframing⟩
    obtain hne | hflag := h b rfl
    · exact hne hvalue
    · rw [hframing] at hflag
      cases hflag

theorem troubleReport_eq (kind : FlightKind) : kind.troubleReport = match kind with
    | .dueBeat => .lineTrouble .dueBeat 0 0
    | .receiptsBeat => .lineTrouble .receiptsBeat 0 0
    | .leavingBeat => .lineTrouble .leavingBeat 0 0
    | .posting id w => .lineTrouble (if w then .withdraw else .cue) id 0
    | .mark count _ => .lineTrouble .mark 0 count := by
  cases kind <;> rfl

/-- A dropped posting leaves the list as LINE_FAILED (R119). -/
theorem finishPosting_leaves {s : State} {p : Posting} (o : PostOutcome) (h : s.posting? p.id = some p) :
    (finishPosting p.id o s).post.list = s.post.list.eraseP (fun q => q.id = p.id)
    ∧ (finishPosting p.id o s).port.queue.getLast?.map Report.body = some (.postingDone (p.doneReport o)) := by
  rw [finishPosting_found o h]
  refine ⟨rfl, ?_⟩
  rw [enqueue_queue, List.getLast?_concat]
  rfl

/-- A frame cut below its eighth collision rejoins the pending set (R166). -/
theorem cut_rejoins (f : Flight) (s : State) (count : Nat) :
    let t := cutEffect f count (release f s)
    t.access.drops = s.access.drops ∧ t.port = s.port ∧ t.control = s.control
      ∧ t.access.receipts = s.access.receipts ∧ t.marks = s.marks := by
  refine ⟨(sameLine_cutEffect f count (release f s)).drops, by simp, by simp, ?_, by simp⟩
  unfold cutEffect
  cases f.kind with
  | leavingBeat | dueBeat | receiptsBeat =>
    dsimp only
    split <;> rfl
  | posting id w =>
    dsimp only
    split
    · rfl
    · split <;> rfl
  | mark => rfl

/-- Settles O52: a collision cuts the frame, and the eighth in succession drops it. -/
theorem collisionsCutAndDrop : Obligations.CollisionsCutAndDrop := by
  intro s f chars n sent back hflight hcopy hindex hsent hback
  subst hindex
  have hcheck : echoCheck back s = collide f s := (echoCheck_eq hflight hcopy hsent back).trans (if_neg (echoPasses_eq_false hback))
  obtain ⟨hsig, kflight, kcopy, kdeparture, ksequence, kcollisions, kreference, kcondition, kcutEnd⟩ := collide_line f s
  refine ⟨_, congrArg Host.Outcome.next hcheck, by rw [State.lde, hsig]; rfl, by rw [hsig]; rfl, kflight, kcopy, kdeparture,
    ksequence, kcollisions, kreference, kcondition, kcutEnd, fun hcut => ?_, fun hdrop => ?_⟩
  · obtain ⟨hdrops, hport, hcontrol, hreceipts, hmarks⟩ := cut_rejoins f s (f.collisions + 1)
    rw [collide_cut s hcut]
    refine ⟨hdrops, hport, hcontrol, hreceipts, hmarks, fun hkind hlost => ?_, fun hkind hclosing => ?_, fun count loss hkind => ?_,
      fun p w hkind hlost hp => ?_, fun hkind hlost => ?_, fun hlost hkind => ?_⟩
    · simp only [cutEffect, hkind, hlost]
      exact ⟨rfl, rfl, rfl⟩
    · simp only [cutEffect, hkind]
      rw [if_pos (show (release f s).control.station = .closing from hclosing)]
      exact ⟨rfl, rfl⟩
    · simp only [cutEffect, hkind]
      rfl
    · have hp' : (release f s).posting? p.id = some p := hp
      simp only [cutEffect, hkind, hlost, hp']
      exact posting?_setPosting (release f s) p { p with collisions := f.collisions + 1 } rfl hp'
    · simp only [cutEffect, hkind, hlost]
      refine ⟨receiptsCondition_iff _, fun hholds => if_pos ((receiptsCondition_iff (release f s)).mpr hholds),
        fun hnot => if_neg (mt (receiptsCondition_iff (release f s)).mp hnot)⟩
    · have hself : cutEffect f (f.collisions + 1) (release f s) = release f s := by
        rcases hkind with hk | hk | ⟨id, w, hk⟩ <;> simp [cutEffect, hk, hlost]
      rw [hself]
      exact ⟨rfl, rfl, rfl⟩
  · obtain ⟨htb, hframes, hsig, hchans, hmarks, hroster, hpost, hcontrol, haccess⟩ := dropBefore_blocks f s
    have hnone : (s.dropBefore f).access.flight = none := by rw [haccess]
    have hdrops := (sameLine_dropEffect f hnone (by rw [htb])).drops
    have hpostings : ∀ id, (s.dropBefore f).posting? id = s.posting? id := fun id => by rw [State.posting?, hpost, State.posting?]
    rw [collide_drop s hdrop]
    refine ⟨by rw [hdrops, haccess], fun hkind => ?_, fun hkind hlost => ?_, fun hroom => ?_, fun hkind hlost => ?_,
      fun count loss hkind => ?_, fun p w hkind hlost hp => ?_, fun hlost hkind => ?_, fun k hkind hclosing hconfig => ?_⟩
    · rw [dropEffect_receipts hnone (by rwa [hcontrol]), haccess]
    · simp only [dropEffect, hkind, hlost]
      exact ⟨rfl, receiptsCondition_iff _⟩
    · obtain ⟨later, hqueue⟩ := dropEffect_prefix f (s.dropBefore f)
      rw [← hqueue, List.map_append, dropBefore_bodies f hroom, List.append_assoc, List.getElem?_append_right (by simp),
        show s.port.queue.length - (s.port.queue.map Report.body).length = 0 by simp]
      exact congrArg some (troubleReport_eq f.kind)
    · simp only [dropEffect, hkind, hlost]
      refine ⟨rfl, ?_⟩
      show (if (s.dropBefore f).access.due = .renewed then DueBeat.pending else DueBeat.none) = _
      rw [haccess]
    · simp only [dropEffect, hkind]
      refine ⟨rfl, ?_, ?_⟩
      · show (s.dropBefore f).marks.outgoing.drop count = _
        rw [hmarks]
      · show satAdd (s.dropBefore f).marks.sharedLoss count = _
        rw [hmarks]
    · have hleaves := finishPosting_leaves .lineFailed ((hpostings p.id).trans hp)
      simp only [dropEffect, hkind, hlost]
      rwa [hpost] at hleaves
    · have hself : dropEffect f (s.dropBefore f) = s.dropBefore f := by
        rcases hkind with hk | hk | ⟨id, w, hk⟩ <;> simp [dropEffect, hk, hlost]
      rw [hself, haccess]
      exact ⟨rfl, rfl, rfl, rfl, hpost⟩
    · have hclosing' : (s.dropBefore f).control.station = .closing := by rw [hcontrol, hclosing]
      have hprep : dropEffect f (s.dropBefore f) = reachPrep .leaveDropped (s.dropBefore f) := by
        simp only [dropEffect, hkind]
        exact if_pos hclosing'
      rw [hprep]
      refine ⟨reachPrep_of_leaving .leaveDropped hconfig htb hchans hmarks hroster hpost (by rw [hsig]; rfl) hcontrol, fun hroom => ?_⟩
      have hsum : s.reportSum + 3 ≤ 48 := hroom
      have hreports : (s.dropBefore f).prepReports .leaveDropped = s.prepReports .leaveDropped := by
        rw [State.prepReports, htb, hcontrol, State.prepReports]
      rw [reachPrep_bodies .leaveDropped (by rw [dropBefore_sum f (by omega)]; omega), dropBefore_bodies f (by omega), hreports,
        hkind]
      rfl

end Sys2Proof.Machine

/-! The frame on the line: what the content test of R139 reads is what R130 to R134 lay out. -/

namespace Sys2Proof.Machine

/-! ## Records, marks and receipts (R132 to R134) -/

/-- A record of a CUE frame as it lies on the line. -/
def CueRecord.chars (r : CueRecord) : List Byte := r.serial :: r.spec.chars

theorem cueRecordsOf_iff (n : Nat) (bytes : List Byte) (records : List CueRecord) :
    cueRecordsOf n bytes = some records ↔
      records.length ≤ n ∧ (∀ r ∈ records, r.spec.whole) ∧ bytes = records.flatMap CueRecord.chars := by
  induction n generalizing bytes records with
  | zero =>
    cases bytes <;> cases records <;> simp [cueRecordsOf, CueRecord.chars]
  | succ n ih =>
    cases bytes with
    | nil => cases records <;> simp [cueRecordsOf, CueRecord.chars]
    | cons serial bytes =>
      simp only [cueRecordsOf, Option.bind_eq_bind, Option.bind_eq_some_iff, Prod.exists, cueSpecOf_iff, ih, Option.some.injEq]
      constructor
      · rintro ⟨r, _, ⟨hr, rfl⟩, more, ⟨hlength, hmore, rfl⟩, rfl⟩
        exact ⟨Nat.succ_le_succ hlength, List.forall_mem_cons.mpr ⟨hr, hmore⟩, rfl⟩
      · rintro ⟨hlength, hwhole, heq⟩
        cases records with
        | nil => cases heq
        | cons r more =>
          obtain ⟨hr, hmore⟩ := List.forall_mem_cons.mp hwhole
          rw [List.flatMap_cons, CueRecord.chars, List.cons_append] at heq
          obtain ⟨rfl, rfl⟩ := List.cons.inj heq
          exact ⟨r.spec, _, ⟨hr, rfl⟩, more, ⟨Nat.le_of_succ_le_succ hlength, hmore, rfl⟩, rfl⟩

theorem tbStateOf_code (t : TbState) : tbStateOf t.code = t := by cases t <;> rfl

/-- The flags character of a mark, read and built (R133). -/
theorem markFlags_iff (c : Byte) (channel : ChannelNo) (fall : Bool) (t : TbState) :
    c = byte (channel.toNat + 8 * fall.toNat + 16 * t.code) ↔
      ¬ 64 ≤ c.toNat ∧ c.setWidth 3 = channel ∧ c.getLsbD 3 = fall ∧ tbStateOf (c.toNat / 16) = t := by
  revert c channel
  cases fall <;> cases t <;> decide +kernel

theorem bytesOf_iff {n w : Nat} (hw : 2 ^ w = 256 ^ n) (bs : List Byte) (hlength : bs.length = n) (v : BitVec w) :
    bs = bytesOf n v.toNat ↔ BitVec.ofNat w (natOf bs) = v := by
  constructor
  · rintro rfl
    rw [natOf_bytesOf, ← hw, Nat.mod_eq_of_lt v.isLt]
    simp
  · rintro rfl
    have hlt := natOf_lt bs
    rw [hlength, ← hw] at hlt
    rw [BitVec.toNat_ofNat, Nat.mod_eq_of_lt hlt, ← hlength, bytesOf_natOf]

theorem markChars_iff (m1 m2 m3 m4 m5 m6 m7 m8 m9 m10 : Byte) (m : MarkRecord) :
    [m1, m2, m3, m4, m5, m6, m7, m8, m9, m10] = m.chars ↔ [m1, m2] = bytesOf 2 m.seq.toNat
      ∧ m3 = byte (m.channel.toNat + 8 * m.fall.toNat + 16 * m.tbState.code)
      ∧ [m4, m5, m6, m7, m8, m9] = bytesOf 6 m.stamp.toNat ∧ m10 = m.suppressed := by
  rw [MarkRecord.chars]
  simp [bytesOf, and_assoc]

theorem markOf_ten_iff (m1 m2 m3 m4 m5 m6 m7 m8 m9 m10 : Byte) (m : MarkRecord) :
    markOf [m1, m2, m3, m4, m5, m6, m7, m8, m9, m10] = some m ↔ [m1, m2, m3, m4, m5, m6, m7, m8, m9, m10] = m.chars := by
  rw [markChars_iff, bytesOf_iff (n := 2) (w := 16) (by norm_num) [m1, m2] rfl,
    bytesOf_iff (n := 6) (w := 48) (by norm_num) [m4, m5, m6, m7, m8, m9] rfl, markFlags_iff]
  have hread : markOf [m1, m2, m3, m4, m5, m6, m7, m8, m9, m10] = if 64 ≤ m3.toNat then none else some {
      seq := BitVec.ofNat 16 (natOf [m1, m2])
      channel := m3.setWidth 3
      fall := m3.getLsbD 3
      stamp := BitVec.ofNat 48 (natOf [m4, m5, m6, m7, m8, m9])
      tbState := tbStateOf (m3.toNat / 16)
      suppressed := m10 } := rfl
  rw [hread]
  by_cases hflags : 64 ≤ m3.toNat
  · rw [if_pos hflags]
    exact ⟨nofun, fun ⟨_, ⟨hnot, _⟩, _⟩ => absurd hflags hnot⟩
  · cases m
    rw [if_neg hflags, Option.some.injEq, MarkRecord.mk.injEq]
    exact ⟨fun ⟨h1, h2, h3, h4, h5, h6⟩ => ⟨h1, ⟨hflags, h2, h3, h5⟩, h4, h6⟩,
      fun ⟨h1, ⟨_, h2, h3, h5⟩, h4, h6⟩ => ⟨h1, h2, h3, h4, h5, h6⟩⟩

/-- A mark is read from its ten characters (R133). -/
theorem markOf_iff (b : List Byte) (m : MarkRecord) : markOf b = some m ↔ b = m.chars := by
  constructor
  · intro h
    have hread := h
    unfold markOf at h
    split at h
    · exact (markOf_ten_iff ..).mp hread
    · cases h
  · rintro rfl
    have hchars : ∃ m1 m2 m3 m4 m5 m6 m7 m8 m9 m10, [m1, m2, m3, m4, m5, m6, m7, m8, m9, m10] = m.chars := by
      rw [MarkRecord.chars]
      exact ⟨_, _, _, _, _, _, _, _, _, _, rfl⟩
    obtain ⟨m1, m2, m3, m4, m5, m6, m7, m8, m9, m10, h⟩ := hchars
    rw [← h]
    exact (markOf_ten_iff ..).mpr h

theorem length_markChars (m : MarkRecord) : m.chars.length = 10 := by simp [MarkRecord.chars]

theorem marksOf_iff (n : Nat) (bytes : List Byte) (marks : List MarkRecord) :
    marksOf n bytes = some marks ↔ marks.length = n ∧ bytes = marks.flatMap MarkRecord.chars := by
  induction n generalizing bytes marks with
  | zero => cases bytes <;> cases marks <;> simp [marksOf]
  | succ n ih =>
    simp only [marksOf, Option.bind_eq_bind, Option.bind_eq_some_iff, markOf_iff, ih, Option.some.injEq]
    constructor
    · rintro ⟨m, hm, more, ⟨hlength, hmore⟩, rfl⟩
      exact ⟨by rw [List.length_cons, hlength], by rw [List.flatMap_cons, ← hm, ← hmore, List.take_append_drop]⟩
    · rintro ⟨hlength, rfl⟩
      cases marks with
      | nil => cases hlength
      | cons m more =>
        exact ⟨m, List.take_left' (length_markChars m), more, ⟨Nat.succ.inj hlength, List.drop_left' (length_markChars m)⟩, rfl⟩

/-- A receipt of a trailer as it lies on the line. -/
def Receipt.chars (r : Receipt) : List Byte := [byte r.key.origin.toNat, r.key.serial, byte r.verdict.code]

theorem verdictOf_eq_some_iff (n : Nat) (v : Verdict) : verdictOf n = some v ↔ n = v.code := by
  unfold verdictOf
  split <;> cases v <;> simp [Verdict.code] <;> omega

/-- A station number in a character (R130, R134). -/
theorem station_iff (c : Byte) (p : StationNo) : c = byte p.toNat ↔ ¬ 32 ≤ c.toNat ∧ c.setWidth 5 = p := by
  revert c p
  decide +kernel

theorem code_lt (v : Verdict) : v.code < 256 := by cases v <;> decide

theorem receiptsOf_iff (n : Nat) (bytes : List Byte) (receipts : List Receipt) :
    receiptsOf n bytes = some receipts ↔ receipts.length = n ∧ bytes = receipts.flatMap Receipt.chars := by
  induction n generalizing bytes receipts with
  | zero => cases bytes <;> cases receipts <;> simp [receiptsOf, Receipt.chars]
  | succ n ih =>
    constructor
    · intro h
      rcases bytes with _ | ⟨origin, _ | ⟨serial, _ | ⟨code, rest⟩⟩⟩
      case cons.cons.cons =>
        rw [receiptsOf] at h
        split at h
        · cases h
        · next horigin =>
          obtain ⟨v, hv, hrest⟩ := Option.bind_eq_some_iff.mp h
          obtain ⟨more, hmore, hlist⟩ := Option.bind_eq_some_iff.mp hrest
          obtain ⟨hlength, rfl⟩ := (ih _ _).mp hmore
          rw [verdictOf_eq_some_iff] at hv
          obtain rfl := Option.some.inj hlist
          refine ⟨congrArg Nat.succ hlength, ?_⟩
          rw [List.flatMap_cons, Receipt.chars, ← (station_iff origin _).mpr ⟨horigin, rfl⟩, ← (eq_byte_iff (code_lt v)).mpr hv]
          rfl
      all_goals cases h
    · rintro ⟨hlength, rfl⟩
      cases receipts with
      | nil => cases hlength
      | cons r more =>
        obtain ⟨hlow, hback⟩ := (station_iff _ r.key.origin).mp rfl
        have hmore := (ih (more.flatMap Receipt.chars) more).mpr ⟨Nat.succ.inj hlength, rfl⟩
        have hcode := byte_toNat (code_lt r.verdict)
        rw [List.flatMap_cons, Receipt.chars]
        simp only [List.cons_append, List.nil_append, receiptsOf, if_neg hlow, hback, hcode,
          (verdictOf_eq_some_iff _ _).mpr rfl, hmore, Option.bind_eq_bind, Option.bind_some]

/-! ## Bodies (R131 to R133) -/

/-- The first character of a BEAT body, read and built (R131). -/
theorem beatFlags_iff (c : Byte) (t : TbState) (leaving : Bool) : c = byte (t.code + 128 * leaving.toNat) ↔
    c.toNat / 4 % 32 = 0 ∧ tbStateOf c.toNat = t ∧ c.getLsbD 7 = leaving := by
  revert c
  cases t <;> cases leaving <;> decide +kernel

theorem beatBodyOf_eleven_iff (b1 b2 b3 b4 b5 b6 b7 b8 b9 b10 b11 : Byte) (body : LineBody) :
    beatBodyOf [b1, b2, b3, b4, b5, b6, b7, b8, b9, b10, b11] = some body ↔ ∃ b : BeatBody, body = .beat b
      ∧ [b1, b2, b3, b4, b5, b6, b7, b8, b9, b10, b11] = (LineBody.beat b).laidOut.2 ∧ b.beatCode.toNat ≤ 5 := by
  have hread : beatBodyOf [b1, b2, b3, b4, b5, b6, b7, b8, b9, b10, b11]
      = if b1.toNat / 4 % 32 ≠ 0 ∨ 5 < b2.toNat then none else some (.beat {
        tbState := tbStateOf b1.toNat
        leaving := b1.getLsbD 7
        beatCode := b2
        groups := b3
        stamp := BitVec.ofNat 48 (natOf [b4, b5, b6, b7, b8, b9])
        spread := BitVec.ofNat 16 (natOf [b10, b11]) }) := rfl
  have hchars : ∀ b : BeatBody, [b1, b2, b3, b4, b5, b6, b7, b8, b9, b10, b11] = (LineBody.beat b).laidOut.2 ↔
      b1 = byte (b.tbState.code + 128 * b.leaving.toNat) ∧ b2 = b.beatCode ∧ b3 = b.groups
        ∧ [b4, b5, b6, b7, b8, b9] = bytesOf 6 b.stamp.toNat ∧ [b10, b11] = bytesOf 2 b.spread.toNat := fun b => by
    simp [LineBody.laidOut, bytesOf, and_assoc]
  have hstamp : ∀ v : Time, [b4, b5, b6, b7, b8, b9] = bytesOf 6 v.toNat ↔ BitVec.ofNat 48 (natOf [b4, b5, b6, b7, b8, b9]) = v :=
    bytesOf_iff (by norm_num) _ rfl
  have hspread : ∀ v : Count16, [b10, b11] = bytesOf 2 v.toNat ↔ BitVec.ofNat 16 (natOf [b10, b11]) = v :=
    bytesOf_iff (by norm_num) _ rfl
  simp only [hchars, hstamp, hspread, beatFlags_iff, hread]
  constructor
  · intro h
    split at h
    · cases h
    · next hrange =>
      obtain ⟨hflags, hcode⟩ := not_or.mp hrange
      exact ⟨_, (Option.some.inj h).symm, ⟨⟨not_not.mp hflags, rfl, rfl⟩, rfl, rfl, rfl, rfl⟩, Nat.le_of_not_lt hcode⟩
  · rintro ⟨⟨_, _, _, _, _, _⟩, rfl, ⟨⟨hflags, rfl, rfl⟩, rfl, rfl, rfl, rfl⟩, hcode⟩
    exact if_neg (not_or.mpr ⟨not_not.mpr hflags, Nat.not_lt.mpr hcode⟩)

theorem beatBodyOf_iff (bytes : List Byte) (body : LineBody) : beatBodyOf bytes = some body ↔
    ∃ b : BeatBody, body = .beat b ∧ bytes = (LineBody.beat b).laidOut.2 ∧ b.beatCode.toNat ≤ 5 := by
  constructor
  · intro h
    have hread := h
    unfold beatBodyOf at h
    split at h
    · exact (beatBodyOf_eleven_iff ..).mp hread
    · cases h
  · rintro ⟨b, rfl, rfl, hcode⟩
    exact (beatBodyOf_eleven_iff ..).mpr ⟨b, rfl, rfl, hcode⟩

theorem cueBodyOf_iff (bytes : List Byte) (body : LineBody) : cueBodyOf bytes = some body ↔
    ∃ target records, body = .cue target records ∧ bytes = (LineBody.cue target records).laidOut.2
      ∧ (LineBody.cue target records).inRange := by
  constructor
  · intro h
    unfold cueBodyOf at h
    split at h
    · next t1 t2 rest =>
      obtain ⟨target, htarget, hrest⟩ := Option.bind_eq_some_iff.mp h
      obtain ⟨records, hrecords, hbody⟩ := Option.bind_eq_some_iff.mp hrest
      obtain ⟨hlength, hwhole, rfl⟩ := (cueRecordsOf_iff _ _ _).mp hrecords
      rw [targetOf_iff] at htarget
      split at hbody
      · cases hbody
      · next hsome =>
        have hpos : 1 ≤ records.length := List.length_pos_iff.mpr (by simpa using hsome)
        refine ⟨target, records, (Option.some.inj hbody).symm, ?_, hpos, hlength, hwhole⟩
        rw [LineBody.laidOut, ← htarget]
        rfl
    · cases h
  · rintro ⟨target, records, rfl, rfl, hpos, hlength, hwhole⟩
    obtain ⟨t1, t2, hchars⟩ := targetChars_eq target
    have hrecords := (cueRecordsOf_iff 4 (records.flatMap CueRecord.chars) records).mpr ⟨hlength, hwhole, rfl⟩
    have hsome : ¬ records.isEmpty = true := by simpa using List.length_pos_iff.mp hpos
    have hlaid : (LineBody.cue target records).laidOut.2 = t1 :: t2 :: records.flatMap CueRecord.chars := by
      rw [LineBody.laidOut, hchars]
      rfl
    rw [hlaid]
    simp only [cueBodyOf, (targetOf_iff t1 t2 target).mpr hchars.symm, hrecords, Option.bind_eq_bind, Option.bind_some, if_neg hsome]

theorem withdrawBodyOf_iff (bytes : List Byte) (body : LineBody) : withdrawBodyOf bytes = some body ↔
    ∃ target serials, body = .withdraw target serials ∧ bytes = (LineBody.withdraw target serials).laidOut.2
      ∧ (LineBody.withdraw target serials).inRange := by
  have hmap : withdrawBodyOf bytes = (withdrawOf bytes).map fun x => .withdraw x.1 x.2 := by
    unfold withdrawBodyOf withdrawOf
    split
    · next t1 t2 count serials =>
      cases targetOf t1 t2 with
      | none => rfl
      | some target =>
        simp only [Option.bind_eq_bind, Option.bind_some]
        split <;> rfl
    · rfl
  rw [hmap, Option.map_eq_some_iff]
  constructor
  · rintro ⟨⟨target, serials⟩, h, rfl⟩
    obtain ⟨hpos, hlength, hbytes⟩ := (withdrawOf_iff _ _ _).mp h
    exact ⟨target, serials, rfl, hbytes, hpos, hlength⟩
  · rintro ⟨target, serials, rfl, hbytes, hpos, hlength⟩
    exact ⟨(target, serials), (withdrawOf_iff _ _ _).mpr ⟨hpos, hlength, hbytes⟩, rfl⟩

theorem markBodyOf_iff (bytes : List Byte) (body : LineBody) : markBodyOf bytes = some body ↔
    ∃ target loss marks, body = .mark target loss marks ∧ bytes = (LineBody.mark target loss marks).laidOut.2
      ∧ (LineBody.mark target loss marks).inRange := by
  constructor
  · intro h
    unfold markBodyOf at h
    split at h
    · next t1 t2 loss count rest =>
      obtain ⟨target, htarget, hrest⟩ := Option.bind_eq_some_iff.mp h
      rw [targetOf_iff] at htarget
      split at hrest
      · cases hrest
      · next hcount =>
        obtain ⟨marks, hmarks, hbody⟩ := Option.bind_eq_some_iff.mp hrest
        obtain ⟨hlength, rfl⟩ := (marksOf_iff _ _ _).mp hmarks
        have hbyte : count = byte marks.length := (eq_byte_iff (by omega)).mpr hlength.symm
        refine ⟨target, loss, marks, (Option.some.inj hbody).symm, ?_, by omega, by omega⟩
        rw [LineBody.laidOut, ← htarget, ← hbyte]
        rfl
    · cases h
  · rintro ⟨target, loss, marks, rfl, rfl, hpos, hlength⟩
    obtain ⟨t1, t2, hchars⟩ := targetChars_eq target
    have hcount := byte_toNat (n := marks.length) (by omega)
    have hmarks := (marksOf_iff marks.length (marks.flatMap MarkRecord.chars) marks).mpr ⟨rfl, rfl⟩
    have hrange : ¬ (marks.length = 0 ∨ 6 < marks.length) := by omega
    rw [LineBody.laidOut, hchars]
    simp only [markBodyOf, List.cons_append, List.nil_append, (targetOf_iff t1 t2 target).mpr hchars.symm, Option.bind_eq_bind,
      Option.bind_some, hcount, if_neg hrange, hmarks]

/-- A body is read from its characters, by its kind, with every field in its range (R130 to R133, R139). -/
theorem lineBodyOf_iff (kind : Byte) (bytes : List Byte) (body : LineBody) :
    lineBodyOf kind bytes = some body ↔ kind = byte body.laidOut.1 ∧ bytes = body.laidOut.2 ∧ body.inRange := by
  have hkind : ∀ n, n < 256 → (kind = byte n ↔ kind.toNat = n) := fun n h => eq_byte_iff h
  unfold lineBodyOf
  cases body with
  | beat b =>
    rw [LineBody.laidOut, hkind 1 (by norm_num)]
    split <;> simp_all [beatBodyOf_iff, cueBodyOf_iff, withdrawBodyOf_iff, markBodyOf_iff, LineBody.laidOut, LineBody.inRange]
  | cue target records =>
    rw [LineBody.laidOut, hkind 2 (by norm_num)]
    split <;> simp_all [beatBodyOf_iff, cueBodyOf_iff, withdrawBodyOf_iff, markBodyOf_iff, LineBody.laidOut]
  | withdraw target serials =>
    rw [LineBody.laidOut, hkind 3 (by norm_num)]
    split <;> simp_all [beatBodyOf_iff, cueBodyOf_iff, withdrawBodyOf_iff, markBodyOf_iff, LineBody.laidOut]
  | mark target loss marks =>
    rw [LineBody.laidOut, hkind 4 (by norm_num)]
    split <;> simp_all [beatBodyOf_iff, cueBodyOf_iff, withdrawBodyOf_iff, markBodyOf_iff, LineBody.laidOut]

end Sys2Proof.Machine

/-! The receiver's characters at the frame unit: a frame that goes on, a stray character, and a frame that ends without being
GOOD. -/

namespace Sys2Proof.Machine

/-! ## The content test (R139) -/

theorem laidOut_eq_append (f : LineFrame) : f.laidOut
    = [byte f.body.laidOut.1, byte f.source.toNat, f.sequence, byte f.body.laidOut.2.length, byte f.receipts.length]
      ++ (f.body.laidOut.2 ++ f.receipts.flatMap Receipt.chars) := by
  rw [← List.append_assoc]
  rfl

theorem length_receiptChars (receipts : List Receipt) : (receipts.flatMap Receipt.chars).length = 3 * receipts.length := by
  induction receipts with
  | nil => rfl
  | cons r more ih =>
    rw [List.flatMap_cons, List.length_append, ih, List.length_cons, Receipt.chars]
    simp
    omega

/-- The content test reads a frame of its declared length from its layout, and from nothing else. -/
theorem lineFrameOf_iff (lead h1 h2 h3 h4 h5 check1 check2 : Byte) (rest : List Byte) (f : LineFrame)
    (hlength : rest.length = h4.toNat + 3 * h5.toNat) :
    lineFrameOf (lead :: (h1 :: h2 :: h3 :: h4 :: h5 :: rest) ++ [check1, check2]) = some f ↔
      h1 :: h2 :: h3 :: h4 :: h5 :: rest = f.laidOut ∧ f.body.inRange ∧ f.receipts.length ≤ 8 := by
  have hbody : (rest ++ [check1, check2]).take h4.toNat = rest.take h4.toNat := List.take_append_of_le_length (by omega)
  have htrailer : ((rest ++ [check1, check2]).drop h4.toNat).take (3 * h5.toNat) = rest.drop h4.toNat := by
    rw [List.drop_append_of_le_length (by omega), List.take_append_of_le_length (by rw [List.length_drop]; omega)]
    exact List.take_of_length_le (by rw [List.length_drop]; omega)
  have hread : lineFrameOf (lead :: (h1 :: h2 :: h3 :: h4 :: h5 :: rest) ++ [check1, check2])
      = if 32 ≤ h2.toNat ∨ 8 < h5.toNat then none else (lineBodyOf h1 ((rest ++ [check1, check2]).take h4.toNat)).bind fun body =>
        (receiptsOf h5.toNat (((rest ++ [check1, check2]).drop h4.toNat).take (3 * h5.toNat))).bind fun receipts =>
          some { source := h2.setWidth 5, sequence := h3, body := body, receipts := receipts } := rfl
  rw [hread, hbody, htrailer, laidOut_eq_append]
  constructor
  · intro h
    split at h
    · cases h
    · next hrange =>
      obtain ⟨hsource, hcount⟩ := not_or.mp hrange
      obtain ⟨body, hfound, hrest⟩ := Option.bind_eq_some_iff.mp h
      obtain ⟨receipts, hreceipts, hframe⟩ := Option.bind_eq_some_iff.mp hrest
      obtain ⟨hkind, hbytes, hin⟩ := (lineBodyOf_iff _ _ _).mp hfound
      obtain ⟨hnumber, htail⟩ := (receiptsOf_iff _ _ _).mp hreceipts
      obtain rfl := Option.some.inj hframe
      have hsize : body.laidOut.2.length = h4.toNat := by
        rw [← hbytes, List.length_take]
        omega
      refine ⟨?_, hin, show receipts.length ≤ 8 by omega⟩
      have h2' : h2 = byte (h2.setWidth 5 : StationNo).toNat := (station_iff _ _).mpr ⟨hsource, rfl⟩
      have h4' : h4 = byte body.laidOut.2.length := by rw [hsize]; simp [byte]
      have h5' : h5 = byte receipts.length := by rw [hnumber]; simp [byte]
      have hcontent : rest = body.laidOut.2 ++ receipts.flatMap Receipt.chars := by
        rw [← hbytes, ← htail, List.take_append_drop]
      simp only [← hkind, ← h2', ← h4', ← h5', ← hcontent]
      rfl
  · rintro ⟨hlaid, hin, hcount⟩
    simp only [List.cons_append, List.nil_append, List.cons.injEq] at hlaid
    obtain ⟨rfl, rfl, rfl, rfl, rfl, rfl⟩ := hlaid
    have h5 := byte_toNat (n := f.receipts.length) (by omega)
    have h4 : (byte f.body.laidOut.2.length).toNat = f.body.laidOut.2.length := by
      rw [List.length_append, length_receiptChars, h5] at hlength
      omega
    obtain ⟨hlow, hback⟩ := (station_iff (byte f.source.toNat) f.source).mp rfl
    rw [if_neg (by omega), h4, h5, List.take_left, List.drop_left, (lineBodyOf_iff _ _ _).mpr ⟨rfl, rfl, hin⟩,
      (receiptsOf_iff _ _ _).mpr ⟨rfl, rfl⟩]
    simp only [Option.bind_some, hback]

/-! ## The check register (R135) -/

theorem crc_concat (chars : List Byte) (c : Byte) : crc (chars ++ [c]) = [7, 6, 5, 4, 3, 2, 1, 0].foldl
    (fun (r : BitVec 16) i => if r.getLsbD 15 = c.getLsbD i then r <<< 1 else (r <<< 1) ^^^ 0x1021) (crc chars) := by
  have hbit : ∀ (r : BitVec 16) (b : Bool), crcBit r b = if r.getLsbD 15 = b then r <<< 1 else (r <<< 1) ^^^ 0x1021 := fun r b => by
    rw [crcBit, show r.msb = r.getLsbD 15 from rfl]
    cases r.getLsbD 15 <;> cases b <;> rfl
  rw [crc, List.foldl_append, ← crc, List.foldl_cons, List.foldl_nil, crcByte]
  simp only [hbit]

/-! ## A character at the frame unit (R136, R137, R180) -/

theorem deliverCharacter_eq {s : State} (c : RxChar) (h : s.access.flight = none) :
    deliverCharacter c s = assemble c s.tb.arrival (s.handedOver c) := by
  rw [deliverCharacter, if_neg (by simp [h])]
  rfl

/-- A character joins the frame in assembly, which goes on. -/
theorem assemble_joins {u : State} {a : Assembly} {c : RxChar} (stamp : Option ArrivalStamp) (ha : u.frames.assembly = some a)
    (hgoes : (a.append c).ends = none) :
    assemble c stamp u = { u with frames := { u.frames with assembly := some (a.append c) } } := by
  rw [assemble, ha]
  simp only [extendFrame, hgoes]
  rfl

/-- A character at which the frame in assembly ends. -/
theorem assemble_ends {u : State} {a : Assembly} {c : RxChar} {how : FrameEnd} (stamp : Option ArrivalStamp)
    (ha : u.frames.assembly = some a) (hends : (a.append c).ends = some how) :
    assemble c stamp u = endFrame (a.append c) how u := by
  rw [assemble, ha]
  simp only [extendFrame, hends]

theorem ends_of_short {a : Assembly} (h : a.chars.length < 6) : a.ends = none := by
  have hnone : a.declared = none := by
    unfold Assembly.declared
    split
    · next heq =>
      rw [heq] at h
      simp at h
      omega
    · rfl
  rw [Assembly.ends, hnone]

theorem ends_of_declared {a : Assembly} {h4 h5 : Byte} (hfour : a.chars[4]? = some h4) (hfive : a.chars[5]? = some h5) :
    a.ends = if 8 + h4.toNat + 3 * h5.toNat ≤ 96 then
        if 8 + h4.toNat + 3 * h5.toNat ≤ a.chars.length then some .lengthReached else none
      else if 96 < a.chars.length then some .overlong else none := by
  have hdeclared : a.declared = some (8 + h4.toNat + 3 * h5.toNat) := by
    unfold Assembly.declared
    split
    · next heq =>
      rw [heq] at hfour hfive
      obtain rfl := Option.some.inj hfour
      obtain rfl := Option.some.inj hfive
      rw [declaredLength]
      congr 1
      omega
    · next hshort =>
      match hchars : a.chars, hfour, hfive, hshort with
      | _ :: _ :: _ :: _ :: _ :: _ :: _, _, _, hshort => exact absurd rfl (hshort _ _ _ _ _ _ _)
      | [_, _, _, _, _], _, hfive, _ => simp at hfive
      | [_, _, _, _], hfour, _, _ | [_, _, _], hfour, _, _ | [_, _], hfour, _, _ | [_], hfour, _, _ | [], hfour, _, _ =>
        simp at hfour
  rw [Assembly.ends, hdeclared]
  rfl

theorem strayEnded_eq (endTick : Time) (a : LineAccess) : a.strayEnded endTick = match a.condition with
    | .receiving => { a with condition := .clear }
    | .cutWait => { a with cutEnd := some endTick }
    | _ => a := by
  rcases a with ⟨_, condition, _⟩
  cases condition <;> rfl

/-- Settles O43: a character outside a frame, and one that a frame does not end at. -/
theorem charactersThatEndNoFrame : Obligations.CharactersThatEndNoFrame := by
  refine ⟨fun s c hflight => ⟨fun hnone hlead hclean => ?_, fun hnone hstray => ?_, fun a ha hgoes => ?_⟩,
    fun a => ⟨ends_of_short, fun h4 h5 hfour hfive => ⟨fun hle => ?_, fun hlt => ?_⟩⟩⟩
  · refine congrArg Host.Outcome.next ((deliverCharacter_eq c hflight).trans ?_)
    have hnone' : (s.handedOver c).frames.assembly = none := hnone
    have hclean' : isCleanLead c = true := by simp [isCleanLead, leadChar, hlead, hclean]
    rw [assemble, hnone']
    simp only [if_pos hclean', openFrame, Assembly.opened, hlead]
    rfl
  · refine congrArg Host.Outcome.next ((deliverCharacter_eq c hflight).trans ?_)
    have hnone' : (s.handedOver c).frames.assembly = none := hnone
    have hstray' : ¬ isCleanLead c = true := by
      simp only [isCleanLead, leadChar, Bool.and_eq_true, beq_iff_eq, Bool.not_eq_true']
      rintro ⟨hvalue, hframing⟩
      obtain hne | hflag := hstray
      · exact hne hvalue
      · rw [hframing] at hflag
        cases hflag
    rw [assemble, hnone']
    simp only [if_neg hstray', strayCharacter]
    exact congrArg (fun x : LineAccess => { s.handedOver c with
      frames := { (s.handedOver c).frames with stray := satInc s.frames.stray }, access := x }) (strayEnded_eq c.endTick s.access)
  · exact congrArg Host.Outcome.next ((deliverCharacter_eq c hflight).trans (assemble_joins _ ha hgoes))
  · exact (ends_of_declared hfour hfive).trans (if_pos hle)
  · exact (ends_of_declared hfour hfive).trans (if_neg (by omega))

/-! ## A frame that ends without being GOOD (R137 to R141) -/

/-- The end of a frame that is not GOOD: its counter, its reference, and nothing dispatched. -/
theorem endFrame_bad {u : State} {a : Assembly} {how : FrameEnd} {v : FrameVerdict} (hv : a.verdict how = v)
    (hbad : ∀ f, v ≠ .good f) : endFrame a how u = { u with
      frames := (FrameUnit.count v { u.frames with assembly := none })
      access := u.access.endedBad a.lastEnd } := by
  have href : v.reference a.lastEnd = FrameEndRef.notGood a.lastEnd := by
    cases v with
    | good f => exact absurd rfl (hbad f)
    | broken | overlong | malformed | badCheck => rfl
  have hquiet : ∀ w, dispatchVerdict v (u.arrivalOf a) w = w := by
    cases v with
    | good f => exact absurd rfl (hbad f)
    | broken | overlong | malformed | badCheck => exact fun _ => rfl
  have haccess : (handFrameEnd (FrameEndRef.notGood a.lastEnd) u).access = u.access.endedBad a.lastEnd := by
    unfold handFrameEnd setReference LineAccess.endedBad
    by_cases hheld : u.access.condition = .held
    · simp [State.onAccess, hheld, FrameEndRef.notGood]
    · simp [State.onAccess, hheld, FrameEndRef.notGood]
  unfold endFrame
  simp only [hv, href, hquiet]
  exact congrArg (fun x : LineAccess => { u with
    frames := (FrameUnit.count v { u.frames with assembly := none }), access := x }) haccess

theorem deliverCharacter_bad {s : State} {a : Assembly} {c : RxChar} {how : FrameEnd} {v : FrameVerdict}
    (ha : s.frames.assembly = some a) (hflight : s.access.flight = none) (hends : (a.append c).ends = some how)
    (hv : (a.append c).verdict how = v) (hbad : ∀ f, v ≠ .good f) : deliverCharacter c s = { s.handedOver c with
      frames := (FrameUnit.count v { (s.handedOver c).frames with assembly := none })
      access := s.access.endedBad c.endTick } := by
  have ha' : (s.handedOver c).frames.assembly = some a := ha
  rw [deliverCharacter_eq c hflight, assemble_ends _ ha' hends, endFrame_bad hv hbad]
  rfl

theorem verdict_broken {a : Assembly} {how : FrameEnd} (h : a.broken = true ∨ how = .gap) : a.verdict how = .broken := if_pos h

/-- The verdict of an unbroken frame that ended at its length. -/
theorem verdict_whole {a : Assembly} (hwhole : a.broken = false) : a.verdict .lengthReached = match lineFrameOf a.chars with
    | none => .malformed
    | some f => if crc (a.chars.drop 1) = 0 then .good f else .badCheck := by
  rw [Assembly.verdict, if_neg (by simp [hwhole]), if_neg (by simp)]
  cases lineFrameOf a.chars with
  | none => rfl
  | some f => exact if_congr (by simp [checkPasses]) rfl rfl

/-- Settles O44: the content test, the check register, and the frames that end BROKEN, OVERLONG, MALFORMED or BAD_CHECK. -/
theorem framesThatEndBad : Obligations.FramesThatEndBad := by
  refine ⟨fun lead h1 h2 h3 h4 h5 check1 check2 rest f hlength => lineFrameOf_iff lead h1 h2 h3 h4 h5 check1 check2 rest f hlength,
    fun chars c => ⟨rfl, crc_concat chars c⟩, by decide +kernel, fun s a ha => ⟨fun c how hflight hends => ?_, fun hphase hwaiting hover => ?_⟩⟩
  · have hend : ∀ v, (a.append c).verdict how = v → (∀ f, v ≠ .good f) → exec (.characterDelivered c) s = .next { s.handedOver c with
        frames := (FrameUnit.count v { (s.handedOver c).frames with assembly := none })
        access := s.access.endedBad c.endTick } := fun v hv hbad =>
      congrArg Host.Outcome.next (deliverCharacter_bad ha hflight hends hv hbad)
    refine ⟨fun hbroken => hend .broken (verdict_broken (.inl hbroken)) nofun, fun hwhole hhow => ?_, fun hwhole hhow hnone => ?_,
      fun hwhole hhow hsome hcheck => ?_⟩
    · have hv : (a.append c).verdict how = .overlong := by
        rw [Assembly.verdict, if_neg (by simp [Assembly.append, hwhole, hhow]), if_pos hhow]
      exact hend .overlong hv nofun
    · subst hhow
      refine hend .malformed ((verdict_whole (a := a.append c) hwhole).trans ?_) nofun
      rw [show lineFrameOf (a.append c).chars = none from hnone]
    · subst hhow
      obtain ⟨f, hf⟩ := Option.ne_none_iff_exists'.mp hsome
      refine hend .badCheck ((verdict_whole (a := a.append c) hwhole).trans ?_) nofun
      rw [show lineFrameOf (a.append c).chars = some f from hf]
      exact if_neg hcheck
  · have hreached : reachedTime s.now (plusTicks a.lastEnd s.gapTicks) = true := decide_eq_true hover
    have hgap : s.gapOver = true := by simp [State.gapOver, ha, hphase, hwaiting, hreached]
    refine congrArg Host.Outcome.next ?_
    rw [gapFound, ha]
    simp only [if_pos hgap]
    rw [endFrame_bad (verdict_broken (.inr rfl)) nofun]
    rfl

end Sys2Proof.Machine

/-! A GOOD frame: its dispatch to the roster and to the blocks its body reaches, and the twin frame. -/

namespace Sys2Proof.Machine

/-! ## The dispatch of a GOOD frame (R138, R141, R142) -/

/-- The end of a GOOD frame: it is counted, its reference is handed over, and it is dispatched. -/
theorem endFrame_good {u : State} {a : Assembly} {f : LineFrame} {how : FrameEnd} (hv : a.verdict how = .good f) :
    endFrame a how u = dispatch f (u.arrivalOf a) { u with
      frames := { u.frames with assembly := none, good := satInc u.frames.good }
      access := { u.access with
        reference := some { endTime := a.lastEnd, sender := some f.source, good := true }
        condition := if u.access.condition = .held then .held else .clear
        cutEnd := if u.access.condition = .held then u.access.cutEnd else none
        endSeen := true } } := by
  unfold endFrame
  simp only [hv]
  refine congrArg (dispatch f (u.arrivalOf a)) ?_
  unfold handFrameEnd setReference
  by_cases hheld : u.access.condition = .held
  · simp [State.onAccess, State.onFrames, hheld, FrameVerdict.reference, FrameUnit.count]
  · simp [State.onAccess, State.onFrames, hheld, FrameVerdict.reference, FrameUnit.count]

/-- The character that completes a GOOD frame is followed by its dispatch, with the stamp held with the frame. -/
theorem deliverCharacter_good {s : State} {c : RxChar} {f : LineFrame} (h : s.completes c f) :
    ∃ stamp : ArrivalStamp, (∀ a held, s.frames.assembly = some a → a.stamp = some held → stamp = held)
      ∧ exec (.characterDelivered c) s = .next (dispatch f stamp (s.frameHeard c f)) := by
  obtain ⟨hflight, a, ha, hbroken, hframing, hends, hframe, hcrc⟩ := h
  have hwhole : (a.append c).broken = false := by simp [Assembly.append, hbroken, hframing]
  have hv : (a.append c).verdict .lengthReached = .good f := by
    rw [verdict_whole hwhole, show lineFrameOf (a.append c).chars = some f from hframe]
    exact if_pos hcrc
  have ha' : (s.handedOver c).frames.assembly = some a := ha
  refine ⟨(s.handedOver c).arrivalOf (a.append c), fun b held hb hstamp => ?_, congrArg Host.Outcome.next ?_⟩
  · obtain rfl : a = b := Option.some.inj (ha.symm.trans hb)
    rw [State.arrivalOf, show (a.append c).stamp = some held from hstamp]
  · rw [deliverCharacter_eq c hflight, assemble_ends _ ha' hends, endFrame_good hv]
    rfl

/-! ## A frame from a peer (R96, R142, R143) -/

theorem entry_of_peer {s : State} {p : StationNo} {e : Peer} (h : s.peer? p = some e) : s.entry p = .peer e := by
  unfold State.peer? at h
  split at h <;> simp_all

theorem takeSequence_eq (e : Peer) (seq : Byte) : e.takeSequence seq = { e with
    lastSeq := some seq
    missed := match e.lastSeq with
      | none => e.missed
      | some last => satAdd e.missed ((seq - last).toNat - 1) } := by
  unfold Peer.takeSequence
  cases e.lastSeq <;> rfl

theorem setPeer_eq {s : State} {p : StationNo} {e : Peer} (h : s.peer? p = some e) (x : Peer) :
    setPeer p x s = { s with roster := { s.roster with entries := s.roster.entries.set p.toNat (.peer x) } } := by
  rw [setPeer, entry_of_peer h]
  rfl

/-- The sequence check of a frame from a peer (R96). -/
theorem sequenceCheck_heard {s : State} {c : RxChar} {f : LineFrame} {e : Peer} (he : s.peer? f.source = some e) :
    sequenceCheck f.source f.sequence (s.frameHeard c f) = s.goodHeard c f e := by
  have he' : (s.frameHeard c f).peer? f.source = some e := he
  rw [sequenceCheck, he']
  simp only []
  rw [setPeer_eq he', takeSequence_eq]
  cases hlast : e.lastSeq <;> simp only [State.goodHeard, hlast] <;> rfl

theorem dispatch_prep {u : State} (f : LineFrame) (stamp : ArrivalStamp) (hprep : u.control.station = .prep)
    (hother : f.source ≠ u.sig.own) : dispatch f stamp u = takeReceipts f.source f.receipts u := by
  have hclosed : u.opened = false := by simp [State.opened, hprep]
  have hheader : dispatchHeader f u = u := by
    rw [dispatchHeader, if_neg hother, if_neg (by simp [hclosed])]
  have hroster : ∀ b t, rosterBeat f.source b t u = u := fun b t => by
    unfold rosterBeat
    split
    · simp [hclosed]
    · rfl
  have hsample : ∀ b, takeSample f.source b stamp u = u := fun b =>
    takeSample_of_not stamp fun k ⟨_, hopen, _⟩ => hopen hprep
  have hbody : dispatchBody f stamp u = u := by
    unfold dispatchBody
    cases f.body with
    | beat b => exact (congrArg _ (hroster b stamp.localTime)).trans (hsample b)
    | cue | withdraw | mark => exact if_neg (by simp [hclosed])
  rw [dispatch, hheader, hbody, ite_self]

theorem dispatch_open {u : State} (f : LineFrame) (stamp : ArrivalStamp) (hopen : u.control.station ≠ .prep)
    (hother : f.source ≠ u.sig.own) : dispatch f stamp u
      = takeReceipts f.source f.receipts (dispatchBody f stamp (sequenceCheck f.source f.sequence u)) := by
  rw [dispatch, if_neg hother, dispatchHeader, if_neg hother, if_pos ((opened_iff u).mpr hopen)]

theorem includesSelf_iff (s : State) (target : Target) : s.includesSelf target = true ↔ target = .one s.sig.own ∨ target = .all
    ∨ ∃ g k, target = .group g ∧ s.control.config = some k ∧ k.groups.getLsbD g.toNat = true := by
  cases target with
  | one p => simp [State.includesSelf]
  | all => simp [State.includesSelf]
  | group g => cases hconfig : s.control.config <;> simp [State.includesSelf, State.groups, hconfig]

/-- Settles O46: a GOOD CUE, WITHDRAW or MARK frame from a peer. -/
theorem goodFramesReachTheirBlocks : Obligations.GoodFramesReachTheirBlocks := by
  intro s c f e hgood hother he u ends here
  obtain ⟨stamp, -, hexec⟩ := deliverCharacter_good hgood
  refine ⟨fun hprep => ?_, fun hopen => ?_⟩
  · rw [show ends (s.frameHeard c f) = (exec (.characterDelivered c) s = _) from rfl, hexec]
    exact congrArg Host.Outcome.next (dispatch_prep (u := s.frameHeard c f) f stamp hprep hother)
  · have hdispatch : dispatch f stamp (s.frameHeard c f) = takeReceipts f.source f.receipts (dispatchBody f stamp u) := by
      rw [dispatch_open (u := s.frameHeard c f) f stamp hopen hother, sequenceCheck_heard he]
    have hends : ∀ t, dispatchBody f stamp u = t → ends t := fun t ht => by
      rw [show ends t = (exec (.characterDelivered c) s = _) from rfl, hexec, hdispatch, ht]
      rfl
    have hopened : u.opened = true := (opened_iff u).mpr hopen
    have hincludes : ∀ target, (u.opened && u.includesSelf target) = true ↔ here target := fun target => by
      rw [hopened, Bool.true_and]
      exact includesSelf_iff u target
    refine ⟨fun target records hbody => ⟨fun hhere => hends _ ?_, fun hnot => hends _ ?_⟩,
      fun target serials hbody => ⟨fun hhere => hends _ ?_, fun hnot => hends _ ?_⟩,
      fun target loss marks hbody => ⟨fun hhere => hends _ ?_, fun hnot => hends _ ?_⟩⟩ <;>
      simp only [dispatchBody, hbody]
    · exact if_pos ((hincludes target).mpr hhere)
    · exact if_neg (mt (hincludes target).mp hnot)
    · exact if_pos ((hincludes target).mpr hhere)
    · exact if_neg (mt (hincludes target).mp hnot)
    · exact if_pos ((hincludes target).mpr hhere)
    · exact if_neg (mt (hincludes target).mp hnot)

/-! ## The twin frame (R97, R197) -/

/-- With no posting in the list, the receipts of a trailer come to nothing (R116). -/
theorem takeReceipts_of_empty (receipter : StationNo) (receipts : List Receipt) {s : State} (h : s.post.list = []) :
    takeReceipts receipter receipts s = s := by
  have hone : ∀ r, takeReceipt receipter r s = s := fun r => by
    rw [takeReceipt, h]
    exact ite_self _
  induction receipts with
  | nil => rfl
  | cons r receipts ih =>
    rw [takeReceipts, List.foldl_cons, hone]
    exact ih

/-- What an entry to MUTED from ACTIVE or CLOSING discards, in terms of the state it finds (R197). -/
theorem silence_eq (s : State) : ∃ port : LocalPort, silence s = { s with
      post := { s.post with list := [] }
      access := LineAccess.clearPending { s.access with
        flight := s.access.flight.map (Flight.loseAll (s.post.list.map Posting.id)) }
      marks := s.marks.discard
      port := port }
    ∧ port.queue.map Report.body = s.port.queue.map Report.body ++ s.abandonReports := by
  refine ⟨(enqueueAll s.abandonReports { s with
      post := { s.post with list := [] }
      access := { s.access with flight := s.access.flight.map (Flight.loseAll (s.post.list.map Posting.id)) } }).port, ?_,
    enqueueAll_bodies ..⟩
  rw [silence, abandonPostings_eq, ← State.abandonReports, enqueueAll_frame]
  rfl

/-- The twin frame counted and reported, before the station becomes MUTED (R97). -/
def State.twinTold (kind seq : Byte) (s : State) : State :=
  queueReport (.lineTwin (satInc s.roster.twinCount) kind seq)
    { s with roster := { s.roster with twinCount := satInc s.roster.twinCount } }

theorem takeTwin_listen {s : State} (kind seq : Byte) (h : s.control.station = .listen) : takeTwin kind seq s
    = setStation .muted .twin ((s.twinTold kind seq).onControl fun c => { c with listenStart := none }) := by
  have hstation : (s.twinTold kind seq).control.station = .listen := by simp [State.twinTold, h]
  have htwin : takeTwin kind seq s = enterMuted (s.twinTold kind seq) := by
    rw [takeTwin, h]
    rfl
  rw [htwin, enterMuted, hstation]

theorem takeTwin_sending {s : State} (kind seq : Byte) (h : s.control.station = .active ∨ s.control.station = .closing) :
    takeTwin kind seq s = setStation .muted .twin (silence (s.twinTold kind seq)) := by
  have hcontrol : (s.twinTold kind seq).control = s.control := by simp [State.twinTold]
  have htwin : takeTwin kind seq s = enterMuted (s.twinTold kind seq) := by
    rw [takeTwin]
    obtain h | h := h <;> rw [h] <;> rfl
  rw [htwin, enterMuted, hcontrol]
  obtain h | h := h <;> rw [h]

theorem takeTwin_muted {s : State} (kind seq : Byte) (h : s.control.station = .muted) :
    takeTwin kind seq s = { s with roster := { s.roster with twinCount := satInc s.roster.twinCount } } := by
  rw [takeTwin, h]
  rfl

theorem takeTwin_prep {s : State} (kind seq : Byte) (h : s.control.station = .prep) : takeTwin kind seq s = s := by
  rw [takeTwin, h]

theorem dispatch_twin {u : State} (f : LineFrame) (stamp : ArrivalStamp) (hown : f.source = u.sig.own) :
    dispatch f stamp u = takeReceipts f.source f.receipts (takeTwin f.body.kindCode f.sequence u) := by
  rw [dispatch, if_pos hown, dispatchHeader, if_pos hown]

theorem setStation_eq (new : StationState) (cause : Cause) (s : State) : ∃ port : LocalPort, setStation new cause s = { s with
      control := { s.control with station := new, cause := some cause }
      port := port }
    ∧ (s.reportSum < 48 → port.queue.map Report.body = s.port.queue.map Report.body ++ [.stationState s.control.station new cause]) :=
  ⟨(setStation new cause s).port, (queueReport_onPort _ _).trans rfl, fun hroom => setStation_bodies new cause hroom⟩

theorem twinTold_eq (kind seq : Byte) (s : State) : ∃ port : LocalPort, s.twinTold kind seq = { s with
      roster := { s.roster with twinCount := satInc s.roster.twinCount }
      port := port }
    ∧ (s.reportSum < 48 → port.queue.map Report.body
      = s.port.queue.map Report.body ++ [.lineTwin (satInc s.roster.twinCount) kind seq]) :=
  ⟨(s.twinTold kind seq).port, (queueReport_onPort _ _).trans rfl, fun hroom =>
    queueReport_bodies _ (s := { s with roster := { s.roster with twinCount := satInc s.roster.twinCount } }) hroom⟩

/-- What a twin frame leaves outside PREP (R97, R197). -/
theorem takeTwin_eq {s : State} (kind seq : Byte) (hopen : s.control.station ≠ .prep) (hother : s.control.station ≠ .active → s.post.list = []) :
    ∃ (access : LineAccess) (marks : MarkSide) (control : StationControl) (port : LocalPort),
      takeTwin kind seq s = { s with
        roster := { s.roster with twinCount := satInc s.roster.twinCount }
        post := { s.post with list := [] }
        access := access
        marks := marks
        control := control
        port := port }
      ∧ control.station = .muted ∧ access.receipts = s.access.receipts ∧ access.reference = s.access.reference
      ∧ (s.control.station = .listen → control.listenStart = none ∧ marks = s.marks)
      ∧ (s.control.station = .active ∨ s.control.station = .closing →
          access.leavingPending = false ∧ access.due = .none ∧ access.receiptsPending = false
          ∧ marks.outgoing = [] ∧ marks.sharedLoss = satAdd s.marks.sharedLoss s.marks.outgoing.length)
      ∧ (s.control.station ≠ .muted → control.cause = some .twin)
      ∧ (s.control.station = .muted → control = s.control ∧ port = s.port ∧ marks = s.marks)
      ∧ (s.control.station ≠ .muted → s.port.queue.length + s.post.list.length + 2 ≤ 48 →
          port.queue.map Report.body = s.port.queue.map Report.body ++ [.lineTwin (satInc s.roster.twinCount) kind seq]
            ++ s.abandonReports ++ [.stationState s.control.station .muted .twin]) := by
  have hempty : s.control.station ≠ .active → ({ s.post with list := [] } : PostingUnit) = s.post := fun h => by rw [← hother h]
  have hnone : s.control.station ≠ .active → s.abandonReports = [] := fun h => by rw [State.abandonReports, hother h]; rfl
  obtain ⟨told, htold, htoldBodies⟩ := twinTold_eq kind seq s
  by_cases hmuted : s.control.station = .muted
  · have hlist := hempty (by simp [hmuted])
    refine ⟨s.access, s.marks, s.control, s.port, ?_, hmuted, rfl, rfl, fun h => ?_, fun h => ?_, absurd hmuted, fun _ => ⟨rfl, rfl, rfl⟩,
      absurd hmuted⟩
    · rw [takeTwin_muted kind seq hmuted, hlist]
    · simp [hmuted] at h
    · simp [hmuted] at h
  by_cases hlisten : s.control.station = .listen
  · have hlist := hempty (by simp [hlisten])
    obtain ⟨port, hport, hbodies⟩ := setStation_eq .muted .twin ((s.twinTold kind seq).onControl fun c => { c with listenStart := none })
    rw [← takeTwin_listen kind seq hlisten, htold] at hport
    refine ⟨s.access, s.marks, { s.control with station := .muted, listenStart := none, cause := some .twin }, port, ?_, rfl, rfl, rfl,
      fun _ => ⟨rfl, rfl⟩, fun h => ?_, fun _ => rfl, fun h => absurd h hmuted, fun _ hroom => ?_⟩
    · rw [hport, hlist]
      rfl
    · simp [hlisten] at h
    · have hsum : s.reportSum + 2 ≤ 48 := hroom
      have hlength := congrArg List.length (htoldBodies (by omega))
      simp only [List.length_map, List.length_append, List.length_singleton] at hlength
      have hroom' : ((s.twinTold kind seq).onControl fun c => { c with listenStart := none }).reportSum < 48 := by
        rw [htold]
        show told.queue.length + s.post.list.length < 48
        rw [State.reportSum] at hsum
        omega
      rw [hbodies hroom', htold, hnone (by simp [hlisten]), List.append_nil, ← htoldBodies (by omega)]
      rfl
  · have hsending : s.control.station = .active ∨ s.control.station = .closing := by
      cases hstation : s.control.station <;> simp_all
    obtain ⟨silent, hsilent, hsilentBodies⟩ := silence_eq (s.twinTold kind seq)
    obtain ⟨port, hport, hbodies⟩ := setStation_eq .muted .twin (silence (s.twinTold kind seq))
    rw [← takeTwin_sending kind seq hsending, hsilent, htold] at hport
    rw [hsilent] at hbodies
    rw [htold] at hsilentBodies hbodies
    refine ⟨LineAccess.clearPending { s.access with
        flight := s.access.flight.map (Flight.loseAll (s.post.list.map Posting.id)) }, s.marks.discard,
      { s.control with station := .muted, cause := some .twin }, port, hport, rfl, rfl, rfl, fun h => absurd h hlisten,
      fun _ => ⟨rfl, rfl, rfl, rfl, rfl⟩, fun _ => rfl, fun h => absurd h hmuted, fun _ hroom => ?_⟩
    have hsum : s.reportSum + 2 ≤ 48 := hroom
    have hall : silent.queue.map Report.body = s.port.queue.map Report.body ++ [.lineTwin (satInc s.roster.twinCount) kind seq]
        ++ s.abandonReports := by
      rw [hsilentBodies, ← htoldBodies (by omega)]
      rfl
    have hlength := congrArg List.length hall
    simp only [List.length_map, List.length_append, List.length_singleton, State.abandonReports] at hlength
    rw [hbodies (show silent.queue.length + 0 < 48 by rw [State.reportSum] at hsum; omega), hall]

/-- Settles O47: a twin frame. -/
theorem twinFrameMutes : Obligations.TwinFrameMutes := by
  intro s c f hgood hown hlaw
  obtain ⟨stamp, -, hexec⟩ := deliverCharacter_good hgood
  obtain ⟨-, -, -, -, hother⟩ := hlaw
  rw [dispatch_twin (u := s.frameHeard c f) f stamp hown] at hexec
  refine ⟨fun hprep => ?_, fun hopen => ?_⟩
  · rw [hexec, takeTwin_prep (s := s.frameHeard c f) _ _ hprep,
      takeReceipts_of_empty f.source f.receipts (s := s.frameHeard c f) (hother (by simp [hprep]))]
  · obtain ⟨access, marks, control, port, heq, hmuted, hreceipts, hreference, hlisten, hsending, hcause, hsame, hbodies⟩ :=
      takeTwin_eq (s := s.frameHeard c f) f.body.kindCode f.sequence hopen hother
    rw [heq, takeReceipts_of_empty _ _ rfl] at hexec
    refine ⟨_, hexec, rfl, hmuted, rfl, rfl, rfl, rfl, hreceipts, ?_, hlisten, hsending, hcause, hsame, hbodies, rfl, rfl, rfl, rfl⟩
    exact hreference.trans (by rw [← hown]; rfl)

end Sys2Proof.Machine

/-! A GOOD BEAT at the roster and the sample table. -/

namespace Sys2Proof.Machine

/-! ## What a report and the end of a posting depend on -/

/-- Two states whose reports come out alike: the postings, the queue, the record and local time are the same. -/
structure SameReports (s t : State) : Prop where
  post : s.post = t.post
  port : s.port = t.port
  control : s.control = t.control
  now : s.tb.localTime = t.tb.localTime

theorem sameReports_setPeer (p : StationNo) (x : Peer) (s : State) : SameReports (setPeer p x s) s := by
  constructor <;> simp

theorem SameReports.trans {s t u : State} (h : SameReports s t) (h' : SameReports t u) : SameReports s u :=
  ⟨h.post.trans h'.post, h.port.trans h'.port, h.control.trans h'.control, h.now.trans h'.now⟩

theorem SameReports.posting? {s t : State} (h : SameReports s t) (id : Byte) : s.posting? id = t.posting? id := by
  rw [State.posting?, State.posting?, h.post]

theorem SameReports.enqueue {s t : State} (h : SameReports s t) (b : ReportBody) : SameReports (enqueue b s) (enqueue b t) where
  post := h.post
  port := by simp only [Machine.enqueue, State.onPort, State.now, h.port, h.control, h.now]
  control := h.control
  now := h.now

theorem SameReports.queueReport {s t : State} (h : SameReports s t) (b : ReportBody) :
    SameReports (queueReport b s) (queueReport b t) := by
  have hsum : s.reportSum = t.reportSum := by rw [State.reportSum, h.port, h.post, State.reportSum]
  unfold Machine.queueReport
  rw [hsum]
  split
  · exact h.enqueue b
  · exact ⟨h.post, by simp only [State.onPort, h.port], h.control, h.now⟩

theorem SameReports.queueReports {s t : State} (h : SameReports s t) (bs : List ReportBody) :
    SameReports (queueReports bs s) (queueReports bs t) := by
  induction bs generalizing s t with
  | nil => exact h
  | cons b bs ih => exact ih (h.queueReport b)

theorem SameReports.finishPosting {s t : State} (h : SameReports s t) (id : Byte) (o : PostOutcome) :
    SameReports (finishPosting id o s) (finishPosting id o t) := by
  unfold Machine.finishPosting
  rw [h.posting? id]
  split
  · exact h
  · refine SameReports.enqueue ?_ _
    exact ⟨congrArg (fun u : PostingUnit => { u with list := u.list.eraseP fun q => q.id == id }) h.post, h.port, h.control, h.now⟩

theorem SameReports.completionTest {s t : State} (h : SameReports s t) (id : Byte) :
    SameReports (completionTest id s) (completionTest id t) := by
  unfold Machine.completionTest
  rw [h.posting? id]
  split
  · exact h
  · split
    · exact h.finishPosting id .complete
    · exact h

theorem SameReports.setPosting {s t : State} (h : SameReports s t) (p : Posting) :
    SameReports (setPosting p s) (setPosting p t) :=
  ⟨congrArg (fun u : PostingUnit => { u with list := u.list.map fun q : Posting => if q.id == p.id then p else q }) h.post, h.port,
    h.control, h.now⟩

theorem SameReports.absentAtPosting {s t : State} (h : SameReports s t) (p : StationNo) (id : Byte) :
    SameReports (absentAtPosting p id s) (absentAtPosting p id t) := by
  unfold Machine.absentAtPosting
  rw [h.posting? id]
  split
  · exact h
  · exact (h.setPosting _).completionTest id

theorem SameReports.absentNotice {s t : State} (h : SameReports s t) (p : StationNo) :
    SameReports (absentNotice p s) (absentNotice p t) := by
  unfold Machine.absentNotice
  rw [h.post]
  generalize (t.post.list.filter fun q => q.expects p).map Posting.id = ids
  induction ids generalizing s t with
  | nil => exact h
  | cons id ids ih => exact ih (h.absentAtPosting p id)

/-! ## What a BEAT makes of an entry (R88 to R91, R95) -/

theorem setPeer_entries {s : State} {p : StationNo} {e : Peer} (h : s.peer? p = some e) (x : Peer) :
    (setPeer p x s).roster = { s.roster with entries := s.roster.entries.set p.toNat (.peer x) } := by
  rw [setPeer_eq h]

theorem withinTwo_iff (e : Peer) (beat : Nat) (heardAt : Time) :
    e.withinTwo beat heardAt = true ↔ ∃ last, e.lastBeat = some last ∧ (heardAt - last).toNat ≤ 2 * beat := by
  unfold Peer.withinTwo
  cases e.lastBeat with
  | none => simp
  | some last => exact ⟨fun h => ⟨last, rfl, of_decide_eq_true h⟩, fun ⟨x, hx, h⟩ => decide_eq_true (Option.some.inj hx ▸ h)⟩

/-- R88's table. -/
theorem afterBeat_table (e : Peer) (beat : Nat) (heardAt : Time) (state : PeerState) (beats : Nat)
    (habsent : e.state = .absent → state = .joining ∧ beats = 1)
    (hwithin : e.state = .joining → e.withinTwo beat heardAt = true → state = .present ∧ beats = 2)
    (hnot : e.state = .joining → ¬ e.withinTwo beat heardAt = true → state = .joining ∧ beats = 1)
    (hpresent : e.state = .present ∨ e.state = .silent → state = .present ∧ beats = 2) :
    e.afterBeat beat heardAt = state ∧ (e.afterBeat beat heardAt).beatCount = beats := by
  unfold Peer.afterBeat
  cases hstate : e.state with
  | absent => obtain ⟨rfl, rfl⟩ := habsent hstate; exact ⟨rfl, rfl⟩
  | joining =>
    dsimp only
    split
    · next h => obtain ⟨rfl, rfl⟩ := hwithin hstate h; exact ⟨rfl, rfl⟩
    · next h => obtain ⟨rfl, rfl⟩ := hnot hstate h; exact ⟨rfl, rfl⟩
  | present => obtain ⟨rfl, rfl⟩ := hpresent (.inl hstate); exact ⟨rfl, rfl⟩
  | silent => obtain ⟨rfl, rfl⟩ := hpresent (.inr hstate); exact ⟨rfl, rfl⟩

/-! ## The state after a BEAT -/

theorem absentNotice_roster (p : StationNo) (s : State) : (absentNotice p s).roster = s.roster := by simp

theorem queueReport_roster (b : ReportBody) (s : State) : (queueReport b s).roster = s.roster := by simp

theorem queueReports_roster (bs : List ReportBody) (s : State) : (queueReports bs s).roster = s.roster := by simp

/-- A BEAT leaves line access, when nothing is in flight. -/
theorem rosterBeat_keeps {g : State} {p : StationNo} (b : BeatBody) (heardAt : Time) (hflight : g.access.flight = none) :
    (rosterBeat p b heardAt g).access = g.access := by
  obtain ⟨haccess, -, hnone⟩ := rosterBeat_settlesOnly p b heardAt g
  rw [haccess, hnone hflight, ← hflight]

/-- A BEAT writes at most the entry of its sender. -/
theorem rosterBeat_entries {g : State} {p : StationNo} {e : Peer} (b : BeatBody) (heardAt : Time) (he : g.peer? p = some e) :
    (rosterBeat p b heardAt g).roster = g.roster
    ∨ ∃ x, (rosterBeat p b heardAt g).roster = { g.roster with entries := g.roster.entries.set p.toNat (.peer x) } := by
  unfold rosterBeat
  rw [he]
  split
  · next k e' _ hsome =>
    obtain rfl := Option.some.inj hsome
    split
    · exact .inl rfl
    · split
      · unfold matchingBeat
        split
        · split
          · exact .inr ⟨_, setPeer_entries he _⟩
          · refine .inr ⟨Peer.toAbsent { e with mismatch := false }, ?_⟩
            rw [makeAbsent, absentNotice_roster, queueReport_roster, setPeer_entries he]
        · refine .inr ⟨e.takeBeat g.beat b heardAt, ?_⟩
          rw [queueReports_roster, setPeer_entries he]
      · unfold mismatchedBeat
        split
        · exact .inl rfl
        · refine .inr ⟨{ e with mismatch := true }, ?_⟩
          rw [queueReport_roster, setPeer_entries he]
  · exact .inl rfl

theorem entry_set_ne {r r' : Roster} {p q : StationNo} {x : RosterEntry} (h : r' = { r with entries := r.entries.set p.toNat x })
    (hq : q ≠ p) : r'.entries[q.toNat] = r.entries[q.toNat] := by
  rw [h]
  exact Vector.getElem_set_ne p.isLt q.isLt fun heq => hq (BitVec.eq_of_toNat_eq heq.symm)

/-- The conditions of GoodBeatAtTheRoster on the state a BEAT is dispatched to. -/
theorem rosterBeat_of_open {g : State} {p : StationNo} {e : Peer} {k : ConfigRecord} (b : BeatBody) (heardAt : Time)
    (hconfig : g.control.config = some k) (he : g.peer? p = some e) (hopen : g.control.station ≠ .prep) :
    rosterBeat p b heardAt g = if b.beatCode = k.beatCode then matchingBeat p e b heardAt g
      else mismatchedBeat p e b.beatCode k.beatCode g := by
  have hopened : ¬ (!g.opened) = true := by simp [(opened_iff g).mpr hopen]
  unfold rosterBeat
  simp only [hconfig, he, if_neg hopened]

theorem takeSample_tb (p : StationNo) (b : BeatBody) (a : ArrivalStamp) (s : State) :
    (takeSample p b a s).tb = { s.tb with samples := (takeSample p b a s).tb.samples } := by
  unfold takeSample
  split
  · rfl
  · split <;> rfl

theorem takeSample_samples_ne (p : StationNo) (b : BeatBody) (a : ArrivalStamp) (s : State) {q : StationNo} (hq : q ≠ p) :
    (takeSample p b a s).tb.samples[q.toNat] = s.tb.samples[q.toNat] := by
  unfold takeSample
  split
  · rfl
  · split
    · exact Vector.getElem_set_ne p.isLt q.isLt fun heq => hq (BitVec.eq_of_toNat_eq heq.symm)
    · rfl

/-- The state after a BEAT, at the roster and the sample table. -/
def State.afterBeat (p : StationNo) (b : BeatBody) (a : ArrivalStamp) (g : State) : State :=
  takeSample p b a (rosterBeat p b a.localTime g)

/-- What a BEAT leaves alone. -/
theorem afterBeat_frame (p : StationNo) (b : BeatBody) (a : ArrivalStamp) (g : State) :
    (g.afterBeat p b a).frames = g.frames ∧ (g.afterBeat p b a).sig = g.sig ∧ (g.afterBeat p b a).cues = g.cues
    ∧ (g.afterBeat p b a).chans = g.chans ∧ (g.afterBeat p b a).marks = g.marks ∧ (g.afterBeat p b a).control = g.control
    ∧ (g.afterBeat p b a).pending = g.pending ∧ (g.afterBeat p b a).world = g.world
    ∧ (g.afterBeat p b a).freeCount = g.freeCount ∧ (g.afterBeat p b a).stepFixed = g.stepFixed := by
  simp [State.afterBeat]

theorem afterBeat_tb (p : StationNo) (b : BeatBody) (a : ArrivalStamp) (g : State) :
    (g.afterBeat p b a).tb = { g.tb with samples := (g.afterBeat p b a).tb.samples } := by
  have hroster : (rosterBeat p b a.localTime g).tb = g.tb := by simp
  have htb := takeSample_tb p b a (rosterBeat p b a.localTime g)
  rw [hroster] at htb
  exact htb

/-- What the report path and the roster hold of a BEAT, which the sample table leaves alone. -/
theorem afterBeat_roster (p : StationNo) (b : BeatBody) (a : ArrivalStamp) (g : State) :
    (g.afterBeat p b a).roster = (rosterBeat p b a.localTime g).roster
    ∧ (g.afterBeat p b a).post = (rosterBeat p b a.localTime g).post
    ∧ (g.afterBeat p b a).port = (rosterBeat p b a.localTime g).port
    ∧ (g.afterBeat p b a).access = (rosterBeat p b a.localTime g).access := by
  simp [State.afterBeat]

theorem afterBeat_peer (p : StationNo) (b : BeatBody) (a : ArrivalStamp) (g : State) (q : StationNo) :
    (g.afterBeat p b a).peer? q = (rosterBeat p b a.localTime g).peer? q :=
  peer?_congr _ _ (afterBeat_roster p b a g).1 q

theorem afterBeat_entry_ne {g : State} {p : StationNo} {e : Peer} (b : BeatBody) (a : ArrivalStamp) (he : g.peer? p = some e)
    {q : StationNo} (hq : q ≠ p) : (g.afterBeat p b a).entry q = g.entry q := by
  obtain ⟨hroster, -⟩ := afterBeat_roster p b a g
  rw [State.entry, hroster]
  obtain hsame | ⟨x, hx⟩ := rosterBeat_entries b a.localTime he
  · rw [hsame, State.entry]
  · exact entry_set_ne hx hq

theorem afterBeat_twinCount {g : State} {p : StationNo} {e : Peer} (b : BeatBody) (a : ArrivalStamp) (he : g.peer? p = some e) :
    (g.afterBeat p b a).roster.twinCount = g.roster.twinCount := by
  obtain ⟨hroster, -⟩ := afterBeat_roster p b a g
  rw [hroster]
  obtain hsame | ⟨x, hx⟩ := rosterBeat_entries b a.localTime he
  · rw [hsame]
  · rw [hx]

theorem afterBeat_sample {g : State} {p : StationNo} {k : ConfigRecord} (b : BeatBody) (a : ArrivalStamp)
    (hconfig : g.control.config = some k) (hopen : g.control.station ≠ .prep) (hother : p ≠ g.sig.own) :
    (g.afterBeat p b a).tb.samples[p.toNat] = if b.beatCode = k.beatCode then some (sampleOf k.lineDelay b.stamp a b.tbState)
      else g.tb.samples[p.toNat] := by
  have hcontrol : (rosterBeat p b a.localTime g).control = g.control := by simp
  have hsig : (rosterBeat p b a.localTime g).sig = g.sig := by simp
  have htb : (rosterBeat p b a.localTime g).tb = g.tb := by simp
  unfold State.afterBeat
  split
  · next hcode =>
    rw [takeSample_of_takes a (c := k) ⟨by rw [hcontrol, hconfig], by rwa [hcontrol], by rwa [hsig], hcode⟩]
    exact Vector.getElem_set_self p.isLt
  · next hcode =>
    have hnot : ∀ c, ¬ (rosterBeat p b a.localTime g).takesSample p b c := fun c ⟨hc, _, _, hcode'⟩ => by
      rw [hcontrol, hconfig] at hc
      exact hcode (by rw [hcode', Option.some.inj hc])
    rw [takeSample_of_not a hnot, htb]

theorem beatReports_eq (p : StationNo) (old new : PeerState) : beatReports p old new
    = if new = .present ∧ old ≠ .present then [.rosterChange p old .present .beat] else [] := by
  unfold beatReports
  split
  · next h => rw [h.1]
  · rfl

/-- Settles O45: a GOOD BEAT from a peer. -/
theorem goodBeatAtTheRoster : Obligations.GoodBeatAtTheRoster := by
  intro s c f b k e hgood hbody hopen hconfig hother he
  obtain ⟨stamp, hstamp, hexec⟩ := deliverCharacter_good hgood
  obtain ⟨hflight, -⟩ := hgood
  refine ⟨stamp, hstamp, ?_⟩
  intro missed within u
  have hpeer : (s.goodHeard c f e).peer? f.source = some { e with lastSeq := some f.sequence, missed := missed } := by
    have hset : setPeer f.source { e with lastSeq := some f.sequence, missed := missed } (s.frameHeard c f) = s.goodHeard c f e :=
      setPeer_eq (s := s.frameHeard c f) he _
    rw [← hset, peer?_setPeer_self (s := s.frameHeard c f) _ he]
  have hexec' : exec (.characterDelivered c) s = .next (takeReceipts f.source f.receipts
      ((s.goodHeard c f e).afterBeat f.source b stamp)) := by
    rw [hexec, dispatch_open (u := s.frameHeard c f) f stamp hopen hother, sequenceCheck_heard he, dispatchBody, hbody]
    rfl
  have hgflight : (s.goodHeard c f e).access.flight = none := hflight
  have hset : ∀ x, SameReports (setPeer f.source x (s.goodHeard c f e)) s := fun x =>
    (sameReports_setPeer f.source x (s.goodHeard c f e)).trans ⟨rfl, rfl, rfl, rfl⟩
  have hroster := rosterBeat_of_open b stamp.localTime (g := s.goodHeard c f e) hconfig hpeer hopen
  have hsample := afterBeat_sample b stamp (g := s.goodHeard c f e) hconfig hopen hother
  have hbeat : (s.goodHeard c f e).beat = beatPeriod k.beatCode := by
    rw [State.beat, show (s.goodHeard c f e).control.config = some k from hconfig]
  have hentries : ∀ q, q ≠ f.source → (s.goodHeard c f e).entry q = s.entry q := fun q hq =>
    entry_set_ne (r := s.roster) rfl hq
  obtain ⟨tframes, tsig, tcues, tchans, tmarks, tcontrol, tpending, tworld, tfree, tstep⟩ :=
    afterBeat_frame f.source b stamp (s.goodHeard c f e)
  obtain ⟨troster, tpost, tport, taccess⟩ := afterBeat_roster f.source b stamp (s.goodHeard c f e)
  have tpeer := afterBeat_peer f.source b stamp (s.goodHeard c f e) f.source
  refine ⟨_, hexec', tframes, taccess.trans (rosterBeat_keeps b stamp.localTime hgflight), tsig, afterBeat_tb ..,
    afterBeat_twinCount b stamp hpeer, fun q hq => ⟨(afterBeat_entry_ne b stamp hpeer hq).trans (hentries q hq), ?_⟩,
    fun hcode => hsample.trans (if_pos hcode), fun hcode hstay state beats habsent hwithin hnot hpresent => ?_,
    fun hcode hleave hnabsent => ?_, fun hcode hleave habsent => ?_, fun hcode => ?_,
    tcues, tchans, tmarks, tcontrol, tpending, tworld, tfree, tstep⟩
  · exact (takeSample_samples_ne _ _ _ _ hq).trans (by simp; rfl)
  · have hmatch : rosterBeat f.source b stamp.localTime (s.goodHeard c f e) = queueReports
        (beatReports f.source e.state (e.afterBeat (beatPeriod k.beatCode) stamp.localTime))
        (setPeer f.source (({ e with lastSeq := some f.sequence, missed := missed } : Peer).takeBeat (beatPeriod k.beatCode) b
          stamp.localTime) (s.goodHeard c f e)) := by
      rw [hroster, if_pos hcode, matchingBeat, if_neg (by simp [hstay]), hbeat]
      rfl
    have hiff := withinTwo_iff e (beatPeriod k.beatCode) stamp.localTime
    obtain ⟨hstate, hbeats⟩ := afterBeat_table e (beatPeriod k.beatCode) stamp.localTime state beats habsent
      (fun hjoining h => hwithin hjoining (hiff.mp h)) (fun hjoining h => hnot hjoining (mt hiff.mpr h)) hpresent
    rw [hmatch] at tpeer tpost tport
    refine ⟨?_, ?_, ?_⟩
    · rw [tpeer, peer?_congr _ _ (queueReports_roster _ _), peer?_setPeer_self _ hpeer, ← hstate, ← hbeats]
      rfl
    · rw [tpost]
      exact ((hset _).queueReports _).post.trans (by simp)
    · rw [tport, hstate, beatReports_eq]
      exact ((hset _).queueReports _).port
  · have hmatch : rosterBeat f.source b stamp.localTime (s.goodHeard c f e) = makeAbsent f.source
        { e with lastSeq := some f.sequence, missed := missed, mismatch := false } .leaving (s.goodHeard c f e) := by
      rw [hroster, if_pos hcode, matchingBeat, if_pos hleave]
      exact if_neg hnabsent
    rw [hmatch] at tpeer tpost tport
    have hsame : SameReports (makeAbsent f.source { e with lastSeq := some f.sequence, missed := missed, mismatch := false } .leaving
        (s.goodHeard c f e)) (absentNotice f.source (queueReport (.rosterChange f.source e.state .absent .leaving) s)) :=
      ((hset _).queueReport _).absentNotice f.source
    exact ⟨tpeer.trans (peer?_makeAbsent _ _ hpeer), tpost.trans hsame.post, tport.trans hsame.port⟩
  · have hmatch : rosterBeat f.source b stamp.localTime (s.goodHeard c f e) = setPeer f.source
        { e with lastSeq := some f.sequence, missed := missed, mismatch := false } (s.goodHeard c f e) := by
      rw [hroster, if_pos hcode, matchingBeat, if_pos hleave]
      exact if_pos habsent
    rw [hmatch] at tpeer tpost tport
    exact ⟨tpeer.trans (peer?_setPeer_self _ hpeer), tpost.trans (hset _).post, tport.trans (hset _).port⟩
  · have hmatch : rosterBeat f.source b stamp.localTime (s.goodHeard c f e) = queueReports
        (if e.mismatch then [] else [.lineMismatch f.source b.beatCode k.beatCode])
        (setPeer f.source { e with lastSeq := some f.sequence, missed := missed, mismatch := true } (s.goodHeard c f e)) := by
      rw [hroster, if_neg hcode, mismatchedBeat]
      by_cases hflag : e.mismatch = true
      · have hsame : ({ e with lastSeq := some f.sequence, missed := missed, mismatch := true } : Peer)
            = { e with lastSeq := some f.sequence, missed := missed } := by rw [← hflag]
        rw [if_pos hflag, if_pos hflag, hsame, setPeer_peer hpeer]
        rfl
      · rw [if_neg hflag, if_neg hflag]
        rfl
    rw [hmatch] at tpeer tpost tport
    refine ⟨?_, hsample.trans (if_neg hcode), ?_, ?_⟩
    · rw [tpeer, peer?_congr _ _ (queueReports_roster _ _), peer?_setPeer_self _ hpeer]
    · rw [tpost]
      exact ((hset _).queueReports _).post.trans (by simp)
    · rw [tport]
      exact ((hset _).queueReports _).port

end Sys2Proof.Machine

/-! What the station builds, a receiver reads back. -/

namespace Sys2Proof.Machine

/-! ## The check characters (R135) -/

/-- The bit that equals the one shifted out leaves the shift alone. -/
theorem crcBit_msb (r : BitVec 16) : crcBit r r.msb = r <<< 1 := by simp [crcBit]

/-- The upper half of the register, entered as a character, is shifted out. -/
theorem crcByte_upper {r : BitVec 16} {c : Byte} (h : ∀ i < 8, c.getLsbD i = r.getLsbD (i + 8)) : crcByte r c = r <<< 8 := by
  have hstep : ∀ j, j < 8 → crcBit (r <<< j) (c.getLsbD (7 - j)) = r <<< (j + 1) := fun j hj => by
    have hmsb : c.getLsbD (7 - j) = (r <<< j).msb := by
      rw [h (7 - j) (by omega), BitVec.msb_eq_getLsbD_last, BitVec.getLsbD_shiftLeft,
        show 7 - j + 8 = 16 - 1 - j by omega]
      have hlow : ¬ 16 - 1 < j := by omega
      simp [hlow]
    rw [hmsb, crcBit_msb, BitVec.shiftLeft_add]
  have h0 := hstep 0 (by omega)
  rw [BitVec.shiftLeft_zero] at h0
  have h1 := hstep 1 (by omega)
  have h2 := hstep 2 (by omega)
  have h3 := hstep 3 (by omega)
  have h4 := hstep 4 (by omega)
  have h5 := hstep 5 (by omega)
  have h6 := hstep 6 (by omega)
  have h7 := hstep 7 (by omega)
  simp only [Nat.reduceSub, Nat.reduceAdd] at h0 h1 h2 h3 h4 h5 h6 h7
  rw [crcByte]
  simp only [List.foldl_cons, List.foldl_nil, h0, h1, h2, h3, h4, h5, h6, h7]

theorem getLsbD_byte (n : Nat) {i : Nat} (hi : i < 8) : (byte n).getLsbD i = n.testBit i := by
  rw [byte, BitVec.getLsbD_ofNat]
  simp [hi]

/-- A frame with its own check characters passes the check (R135). -/
theorem crc_own (content : List Byte) : crc (content ++ bytesOf 2 (crc content).toNat) = 0 := by
  generalize hr : crc content = r
  have hfields : bytesOf 2 r.toNat = [byte (r.toNat / 2 ^ 8), byte r.toNat] := (bytesOf_fields r.toNat).1
  have hupper : crcByte r (byte (r.toNat / 2 ^ 8)) = r <<< 8 := crcByte_upper fun i hi => by
    rw [getLsbD_byte _ hi, Nat.testBit_div_two_pow, BitVec.getLsbD]
  have hlower : crcByte (r <<< 8) (byte r.toNat) = r <<< 8 <<< 8 := crcByte_upper fun i hi => by
    have hlt : i + 8 < 16 := by omega
    rw [getLsbD_byte _ hi, BitVec.getLsbD_shiftLeft, Nat.add_sub_cancel]
    simp [hlt, BitVec.getLsbD]
  have hout : r <<< 8 <<< 8 = 0 := by
    rw [← BitVec.shiftLeft_add]
    exact BitVec.shiftLeft_eq_zero (by omega)
  rw [crc, List.foldl_append, ← crc, hr, hfields, List.foldl_cons, List.foldl_cons, List.foldl_nil, hupper, hlower, hout]

/-! ## The bodies as they are built (R145 to R147) -/

theorem targetBytes_eq (target : Target) : target.bytes = target.chars := by
  cases target with
  | one p =>
    rw [Target.bytes, Target.chars, setWidth_eq_byte]
    rfl
  | group g => revert g; decide
  | all => rfl

theorem recordBytes_eq {r : CueRecord} (h : r.spec.whole) : r.bytes = r.chars := by
  obtain ⟨hwidth, hperiod, hcount⟩ := (whole_iff r.spec).mp h
  have hfire : (match r.spec.fire with | some t => bytesOf 6 t.toNat | none => []) = r.spec.fire.elim [] fun t => bytesOf 6 t.toNat := by
    cases r.spec.fire <;> rfl
  have hw : (if r.spec.action.usesWidth then bytesOf 3 (r.spec.width.getD 0).toNat else [])
      = r.spec.width.elim [] fun w => bytesOf 3 w.toNat := by
    rw [← hwidth]
    cases r.spec.width <;> rfl
  have hp : (if r.spec.action.usesPeriod then bytesOf 3 (r.spec.period.getD 0).toNat ++ [r.spec.count.getD 0] else [])
      = (r.spec.period.elim [] fun p => bytesOf 3 p.toNat) ++ r.spec.count.elim [] fun n => [n] := by
    rw [← hperiod] at hcount ⊢
    cases hperiodOf : r.spec.period <;> cases hcountOf : r.spec.count <;> simp [hperiodOf, hcountOf] at hcount ⊢
  rw [CueRecord.bytes, CueRecord.chars, chars_eq, CueSpec.descriptor, bitOf_eq_toNat, bitOf_eq_toNat, hw, hp, ← hfire]
  simp only [List.cons_append, List.nil_append, List.append_assoc] <;> rfl

theorem heldReceiptBytes_eq (receipts : List HeldReceipt) : receipts.flatMap HeldReceipt.bytes
    = (receipts.map fun r => ({ key := r.key, verdict := r.verdict } : Receipt)).flatMap Receipt.chars := by
  rw [List.flatMap_map]
  refine List.flatMap_congr fun r _ => ?_
  rw [HeldReceipt.bytes, setWidth_eq_byte]
  rfl

/-- A body in its ranges fits its length character. -/
theorem length_laidOut_lt {body : LineBody} (h : body.inRange) : body.laidOut.2.length < 256 := by
  have htarget : ∀ target : Target, target.chars.length = 2 := fun target => by cases target <;> rfl
  cases body with
  | beat b => simp [LineBody.laidOut]
  | withdraw target serials =>
    obtain ⟨-, hle⟩ := h
    rw [LineBody.laidOut, List.length_append, htarget, List.length_cons]
    omega
  | mark target loss marks =>
    obtain ⟨-, hle⟩ := h
    have hmarks := length_flatMap_le MarkRecord.chars 10 marks fun m _ => (length_markChars m).le
    rw [LineBody.laidOut, List.length_append, htarget, List.length_cons, List.length_cons]
    omega
  | cue target records =>
    obtain ⟨-, hle, hwhole⟩ := h
    have hrecords := length_flatMap_le CueRecord.chars 15 records fun r hr => by
      rw [← recordBytes_eq (hwhole r hr)]
      exact length_recordBytes_le r
    rw [show (LineBody.cue target records).laidOut.2 = target.chars ++ records.flatMap CueRecord.chars from rfl, List.length_append,
      htarget]
    omega

/-- What a receiver reads of the copy of a frame (R129 to R135). -/
def State.readsBack (s : State) (kind : FlightKind) (body : LineBody) : Prop :=
  lineFrameOf (s.frameCopy kind) = some {
    source := s.sig.own
    sequence := s.frames.sequence
    body := body
    receipts := (s.access.receipts.take 8).map fun r => ({ key := r.key, verdict := r.verdict } : Receipt) }
  ∧ crc ((s.frameCopy kind).drop 1) = 0 ∧ (s.frameCopy kind).head? = some 0x9B

/-- A frame whose body is built as it is laid out reads back. -/
theorem readsBack_of_laidOut {s : State} {kind : FlightKind} {body : LineBody}
    (hbody : s.bodyOf kind = (byte body.laidOut.1, body.laidOut.2)) (hin : body.inRange) : s.readsBack kind body := by
  have htrailer : s.trailer = s.access.receipts.take 8 := rfl
  have hcontent : s.frameContent kind = byte body.laidOut.1 :: byte s.sig.own.toNat :: s.frames.sequence
      :: byte body.laidOut.2.length :: byte (s.access.receipts.take 8).length
      :: (body.laidOut.2 ++ (s.access.receipts.take 8).flatMap HeldReceipt.bytes) := by
    rw [State.frameContent, hbody, htrailer, setWidth_eq_byte]
    rfl
  have hfields : bytesOf 2 (crc (s.frameContent kind)).toNat
      = [byte ((crc (s.frameContent kind)).toNat / 2 ^ 8), byte (crc (s.frameContent kind)).toNat] := (bytesOf_fields _).1
  have hcopy : s.frameCopy kind = leadChar :: s.frameContent kind
      ++ [byte ((crc (s.frameContent kind)).toNat / 2 ^ 8), byte (crc (s.frameContent kind)).toNat] := by
    rw [State.frameCopy, hfields]
  have hcount : (s.access.receipts.take 8).length ≤ 8 := List.length_take_le ..
  refine ⟨?_, crc_own (s.frameContent kind), rfl⟩
  rw [hcopy, hcontent, lineFrameOf_iff]
  · refine ⟨?_, hin, by simp⟩
    rw [laidOut_eq_append, heldReceiptBytes_eq, List.length_map]
    rfl
  · rw [List.length_append, heldReceiptBytes_eq, length_receiptChars, List.length_map, byte_toNat (length_laidOut_lt hin),
      byte_toNat (by omega)]

theorem beatBytes_eq {s : State} {k : ConfigRecord} (hconfig : s.control.config = some k) (leaving : Bool) : s.beatBytes leaving
    = (LineBody.beat {
      tbState := s.tb.tbState
      leaving := leaving
      beatCode := k.beatCode
      groups := k.groups
      stamp := s.shared
      spread := s.tb.spread }).laidOut.2 := by
  simp only [State.beatBytes, State.groups, hconfig, bitOf_eq_toNat, LineBody.laidOut]
  rfl

theorem carried_nonempty {m : MarkSide} {h : OutMark} {rest : List OutMark} (hm : m.outgoing = h :: rest) :
    1 ≤ m.carried.length := by
  rw [MarkSide.carried, hm]
  simp [marksPerFrame]

theorem markBytes_eq_laidOut {m : MarkSide} {h : OutMark} {rest : List OutMark} (hm : m.outgoing = h :: rest) :
    m.bytes = (LineBody.mark h.target m.sharedLoss (m.carried.map OutMark.mark)).laidOut.2 := by
  have hmarks : (m.carried.flatMap fun x => x.mark.bytes) = (m.carried.map OutMark.mark).flatMap MarkRecord.chars := by
    rw [List.flatMap_map]
    exact List.flatMap_congr fun x _ => markBytes_eq_chars x.mark
  rw [MarkSide.bytes, hmarks, hm, LineBody.laidOut, List.length_map]
  simp only [targetBytes_eq, List.append_assoc]
  rfl

/-- Settles O50: the frames the station builds, read back. -/
theorem builtFramesReadBackGood : Obligations.BuiltFramesReadBackGood := by
  intro s receipts reads
  refine ⟨fun k hconfig hcode => ⟨?_, ?_, ?_⟩, fun p serials hp hbody hlow hhigh => ?_, fun p records hp hbody hlow hhigh hfields => ?_,
    fun h rest hm => ?_⟩
  · exact readsBack_of_laidOut (congrArg (Prod.mk 1) (beatBytes_eq hconfig true)) hcode
  · exact readsBack_of_laidOut (congrArg (Prod.mk 1) (beatBytes_eq hconfig false)) hcode
  · exact readsBack_of_laidOut (congrArg (Prod.mk 1) (beatBytes_eq hconfig false)) hcode
  · refine readsBack_of_laidOut ?_ ⟨hlow, hhigh⟩
    simp only [State.bodyOf, hp, Option.map_some, Option.getD_some, Posting.bytes, hbody, targetBytes_eq]
    rfl
  · have hwhole : ∀ r ∈ records, r.spec.whole := fun r hr => (whole_iff r.spec).mpr (hfields r hr)
    have hrecords : records.flatMap CueRecord.bytes = records.flatMap CueRecord.chars :=
      List.flatMap_congr fun r hr => recordBytes_eq (hwhole r hr)
    refine readsBack_of_laidOut ?_ ⟨hlow, hhigh, hwhole⟩
    simp only [State.bodyOf, hp, Option.map_some, Option.getD_some, Posting.bytes, hbody, targetBytes_eq, hrecords]
    rfl
  · refine readsBack_of_laidOut (congrArg (Prod.mk 4) (markBytes_eq_laidOut hm)) ⟨?_, ?_⟩
    · rw [List.length_map]
      exact carried_nonempty hm
    · rw [List.length_map]
      exact length_carried_le s.marks

end Sys2Proof.Machine

/-! The receiver, sample by sample, and its events. -/

namespace Sys2Proof.Machine

/-! ## Decision samples (9.2) -/

theorem isEarlyVote_iff (q n : Nat) : isEarlyVote q n = true ↔ n + 1 = q / 2 ∨ n = q / 2 := by simp [isEarlyVote]

theorem isLastVote_iff (q n : Nat) : isLastVote q n = true ↔ n = q / 2 + 1 := by simp [isLastVote]

theorem not_early_of_last {q n : Nat} (h : n = q / 2 + 1) : ¬ isEarlyVote q n = true := by
  rw [isEarlyVote_iff]
  omega

theorem decided_eq (a b level : Bool) : decided [level, b, a] = mostly a b level := by
  revert a b level
  decide

theorem differ_eq (a b level : Bool) : differ [level, b, a] = decide ¬ (a = b ∧ b = level) := by
  revert a b level
  decide

/-- Eight data bits and the value they carry (R179). -/
theorem valueOf_getLsbD (data : List Bool) (h : data.length = 8) : ∀ j < 8, (valueOf data).getLsbD j = data.getD j false := by
  match data, h with
  | [b0, b1, b2, b3, b4, b5, b6, b7], _ =>
    revert b0 b1 b2 b3 b4 b5 b6 b7
    decide +kernel

theorem valueOf_eq {data : List Bool} (hlength : data.length = 8) {v : Byte} (h : ∀ j < 8, v.getLsbD j = data.getD j false) :
    valueOf data = v :=
  BitVec.eq_of_getLsbD_eq fun j hj => (valueOf_getLsbD data hlength j hj).trans (h j hj).symm

theorem charValue_eq {bits : List Bool} (hlength : bits.length = 9) {v : Byte} (h : ∀ j < 8, v.getLsbD j = bits.getD (j + 1) false) :
    charValue bits = v := by
  match bits, hlength with
  | [b, b0, b1, b2, b3, b4, b5, b6, b7], _ => exact valueOf_eq rfl h

/-! ## The receiver by its state (R177 to R180, R184) -/

/-- HUNTING (R177, R180). -/
theorem hunt_eq (now : Time) (level : Bool) (before : Option Bool) (x : Signalling) :
    let edge := before = some true ∧ level = false
    (x.waiting = none → (edge → x.hunt now level before = (x, [.startEdge])) ∧ (¬ edge → x.hunt now level before = (x, [])))
    ∧ ∀ w, x.waiting = some w → (edge → x.hunt now level before = (x, [w.deliver now, .startEdge]))
      ∧ (¬ edge → w.remaining ≤ 1 → x.hunt now level before = (x, [w.deliver now]))
      ∧ (¬ edge → 2 ≤ w.remaining →
        x.hunt now level before = ({ x with waiting := some { w with remaining := w.remaining - 1 } }, [])) := by
  intro edge
  have hfalling : (before == some true && !level) = true ↔ edge := by simp [edge]
  unfold Signalling.hunt
  refine ⟨fun hnone => ?_, fun w hw => ?_⟩
  · simp only [hnone]
    exact ⟨fun h => by rw [if_pos (hfalling.mpr h)], fun h => by rw [if_neg (mt hfalling.mp h)]⟩
  · simp only [hw]
    exact ⟨fun h => if_pos (hfalling.mpr h), fun h hle => (if_neg (mt hfalling.mp h)).trans (if_pos hle),
      fun h hlt => (if_neg (mt hfalling.mp h)).trans (if_neg (by omega))⟩

/-- START CHECK (R178). -/
theorem checkStart_eq (q n : Nat) (level : Bool) (x : Signalling) :
    (n + 1 = q / 2 ∨ n = q / 2 → x.checkStart q n level = ({ x with votes := level :: x.votes }, []))
    ∧ (n = q / 2 + 1 → ∀ a b, x.votes = [b, a] → x.checkStart q n level = ({ x with votes := [level, b, a] },
        [if mostly a b level then .glitch else .startConfirmation (decide ¬ (a = b ∧ b = level))]))
    ∧ (¬ (n + 1 = q / 2 ∨ n = q / 2) → ¬ n = q / 2 + 1 → x.checkStart q n level = (x, [])) := by
  unfold Signalling.checkStart
  refine ⟨fun h => if_pos ((isEarlyVote_iff q n).mpr h), fun h a b hvotes => ?_, fun hearly hlast => ?_⟩
  · rw [if_neg (not_early_of_last h), if_pos ((isLastVote_iff q n).mpr h)]
    simp only [hvotes, decided_eq, differ_eq]
  · rw [if_neg (mt (isEarlyVote_iff q n).mp hearly), if_neg (mt (isLastVote_iff q n).mp hlast)]

/-- BITS (R179, R180). -/
theorem decideBit_eq (now : Time) (q n : Nat) (level : Bool) (x : Signalling) :
    (n + 1 = q / 2 ∨ n = q / 2 → x.decideBit now q n level = ({ x with votes := level :: x.votes }, []))
    ∧ (n = q / 2 + 1 → ∀ a b, x.votes = [b, a] →
      (x.bits.length < 9 → x.decideBit now q n level = ({ x with
        votes := []
        bits := x.bits ++ [mostly a b level]
        noisy := x.noisy || decide ¬ (a = b ∧ b = level) }, []))
      ∧ (x.bits.length = 9 → ∀ v : Byte, (∀ j < 8, v.getLsbD j = x.bits.getD (j + 1) false) →
        let w : WaitingChar := {
          value := v
          noisy := x.noisy || decide ¬ (a = b ∧ b = level)
          framing := !(mostly a b level)
          startTick := x.startTick
          remaining := q / 2 - 2 }
        x.decideBit now q n level = ({ x with phase := .hunting, votes := [], bits := [], noisy := false, waiting := some w },
          if q / 2 - 2 = 0 then [w.deliver now] else [])))
    ∧ (¬ (n + 1 = q / 2 ∨ n = q / 2) → ¬ n = q / 2 + 1 → x.decideBit now q n level = (x, [])) := by
  unfold Signalling.decideBit
  refine ⟨fun h => if_pos ((isEarlyVote_iff q n).mpr h), fun h a b hvotes => ⟨fun hmore => ?_, fun hlast v hv => ?_⟩,
    fun hearly hlast => ?_⟩
  · rw [if_neg (not_early_of_last h), if_pos ((isLastVote_iff q n).mpr h)]
    simp only [hvotes, decided_eq, differ_eq, if_pos hmore]
  · have hfull : ¬ x.bits.length < 9 := by omega
    rw [if_neg (not_early_of_last h), if_pos ((isLastVote_iff q n).mpr h)]
    simp only [hvotes, decided_eq, differ_eq, if_neg hfull, Signalling.complete, charValue_eq hlast hv]
  · rw [if_neg (mt (isEarlyVote_iff q n).mp hearly), if_neg (mt (isLastVote_iff q n).mp hlast)]

/-- ECHO (R184). -/
theorem readEcho_eq (q offset : Nat) (level : Bool) (x : Signalling) :
    let n := offset - x.bits.length * q
    let ends := fun y : Signalling =>
      x.readEcho q offset level = (y, if offset + 1 = 10 * q then [.echoCheck (readBackOf y.bits y.noisy)] else [])
    (n + 1 = q / 2 ∨ n = q / 2 → ends { x with votes := level :: x.votes })
    ∧ (n = q / 2 + 1 → ∀ a b, x.votes = [b, a] → ends { x with
        votes := [], bits := x.bits ++ [mostly a b level], noisy := x.noisy || decide ¬ (a = b ∧ b = level) })
    ∧ (¬ (n + 1 = q / 2 ∨ n = q / 2) → ¬ n = q / 2 + 1 → ends x) := by
  intro n ends
  have hread : ∀ y, (if isEarlyVote q n then { x with votes := level :: x.votes }
      else if isLastVote q n then { x with
        votes := [], bits := x.bits ++ [decided (level :: x.votes)], noisy := x.noisy || differ (level :: x.votes) }
      else x) = y → ends y := fun y hy => by
    subst hy
    rfl
  refine ⟨fun h => hread _ (if_pos ((isEarlyVote_iff q n).mpr h)), fun h a b hvotes => hread _ ?_, fun hearly hlast => hread _ ?_⟩
  · rw [if_neg (not_early_of_last h), if_pos ((isLastVote_iff q n).mpr h)]
    simp only [hvotes, decided_eq, differ_eq]
  · rw [if_neg (mt (isEarlyVote_iff q n).mp hearly), if_neg (mt (isLastVote_iff q n).mp hlast)]

theorem readsSamples_holds (s : State) (place : Nat) (level : Bool) (before : Option Bool) : s.readsSamples place level before := by
  unfold State.readsSamples
  intro x q since early last gives given edge
  refine ⟨fun hphase => ?_, fun hphase => ?_, fun hphase => ?_, fun hphase => ?_⟩
  · have hreceive : s.receive place level before = s.sig.hunt s.now level before := by
      unfold State.receive
      rw [show s.sig.phase = .hunting from hphase]
    simp only [gives, hreceive]
    exact hunt_eq s.now level before x
  · have hreceive : s.receive place level before = s.sig.checkStart q (since x.startTick - x.startPlace) level := by
      unfold State.receive
      rw [show s.sig.phase = .startCheck from hphase]
      rfl
    simp only [gives, hreceive]
    exact checkStart_eq q _ level x
  · have hreceive : s.receive place level before
        = s.sig.decideBit s.now q (since x.startTick - x.startPlace - x.bits.length * q) level := by
      unfold State.receive
      rw [show s.sig.phase = .bits from hphase]
      rfl
    simp only [gives, hreceive]
    exact decideBit_eq s.now q _ level x
  · have hreceive : s.receive place level before = match s.access.flight with
        | some f => s.sig.readEcho q (since f.start - x.echoIndex * (10 * q)) level
        | none => (s.sig, []) := by
      unfold State.receive
      rw [show s.sig.phase = .echo from hphase] <;> rfl
    simp only [gives, hreceive]
    refine ⟨fun hnone => by rw [hnone], fun f hf => ?_⟩
    rw [hf]
    exact readEcho_eq q _ level x

theorem readBackOf_data (data : List Bool) (stop noisy : Bool) {v : Byte} (hlength : data.length = 8)
    (h : ∀ j < 8, v.getLsbD j = data.getD j false) :
    readBackOf (false :: data ++ [stop]) noisy = some { value := v, noisy := noisy, framing := !stop } := by
  have hvalue := valueOf_eq hlength h
  match data, hlength with
  | [b0, b1, b2, b3, b4, b5, b6, b7], _ =>
    rw [← hvalue]
    rfl

/-- Settles O42: the receiver's samples, the read-back, and the events of the receiver. -/
theorem receiverTakesSamplesAndStartEdges : Obligations.ReceiverTakesSamplesAndStartEdges := by
  refine ⟨readsSamples_holds, fun data stop noisy v hlength h => ⟨readBackOf_data data stop noisy hlength h, rfl⟩,
    fun s => ⟨fun hphase hnone => ?_, fun hphase _ w hw => ?_, fun hphase noisy => ?_, fun hphase => ?_⟩⟩
  · refine congrArg Host.Outcome.next ((if_pos hphase).trans ?_)
    rw [deliverWaiting, hnone]
    rfl
  · refine ⟨_, rfl, congrArg Host.Outcome.next ((if_pos hphase).trans ?_)⟩
    rw [deliverWaiting, hw]
    rfl
  · exact congrArg Host.Outcome.next (if_pos hphase)
  · refine congrArg Host.Outcome.next ((if_pos hphase).trans ?_)
    rw [← satInc_word s.sig.glitches]
    rfl

end Sys2Proof.Machine

/-! The clock: the events that are due, the idle step, and the next tick. -/

namespace Sys2Proof.Machine

/-! ## The conditions of the clock's events -/

theorem mem_eventIf (holds : Bool) (x e : Instr) : e ∈ eventIf holds x ↔ holds = true ∧ e = x := by
  cases holds <;> simp [eventIf]

theorem slewMarked_iff (s : State) : s.slewMarked = true ↔ s.marksAStep := by
  simp [State.slewMarked, State.marksAStep]

theorem periodExpired_iff (s : State) : s.periodExpired = true ↔ s.periodOver := by
  unfold State.periodExpired State.periodOver
  cases hconfig : s.control.config with
  | none => simp
  | some c =>
    cases hstart : s.tb.periodStart with
    | none => simp
    | some since => simp [opened_iff, State.beat, hconfig, elapsed, State.now]

theorem slewDue_iff (s : State) : s.slewDue = true ↔ s.waitsForStep := by
  rw [State.slewDue, Bool.and_eq_true, slewMarked_iff, Bool.or_eq_true, periodExpired_iff, bne_iff_ne, State.waitsForStep]

theorem expiryWaits_iff (s : State) : s.expiryWaits = true ↔ s.stepFixed = true ∧ s.marksAStep := by
  rw [State.expiryWaits, Bool.and_eq_true, slewMarked_iff]

theorem listenEnded_iff (s : State) : s.listenEnded = true ↔ s.control.station = .listen
    ∧ ∃ since, s.control.listenStart = some since ∧ 3 * s.beat ≤ (s.tb.localTime - since).toNat := by
  unfold State.listenEnded
  cases s.control.station with
  | listen =>
    cases s.control.listenStart with
    | none => simp
    | some since => exact ⟨fun h => ⟨rfl, since, rfl, of_decide_eq_true h⟩, fun ⟨_, _, hsome, h⟩ => by cases hsome; exact decide_eq_true h⟩
  | prep | active | closing | muted => simp

theorem lingerOver_iff (s : State) : s.lingerOver = true ↔ ∃ c since, s.control.config = some c ∧ s.port.lingerStart = some since
    ∧ 1000 * c.linger.toNat ≤ (s.tb.localTime - since).toNat := by
  unfold State.lingerOver
  cases s.control.config with
  | none => simp
  | some c =>
    cases s.port.lingerStart with
    | none => simp
    | some since =>
      exact ⟨fun h => ⟨c, since, rfl, rfl, of_decide_eq_true h⟩,
        fun ⟨_, _, hc, hsome, h⟩ => by cases hc; cases hsome; exact decide_eq_true h⟩

theorem windowExpired_iff (s : State) (p : Posting) : s.windowExpired p = true ↔ p.state = .awaiting
    ∧ ∃ e, p.windowEnd = some e ∧ (s.tb.localTime - e).toNat < 2 ^ 47 := by
  unfold State.windowExpired
  cases p.state with
  | waiting => simp
  | awaiting =>
    cases p.windowEnd with
    | none => simp
    | some e => exact ⟨fun h => ⟨rfl, e, rfl, of_decide_eq_true h⟩, fun ⟨_, _, hsome, h⟩ => by cases hsome; exact decide_eq_true h⟩

/-- The frame of a posting is not in transmission (R112). -/
theorem not_inTransmission_iff (s : State) (id : Byte) : (!s.inTransmission id) = true ↔
    ∀ f w, s.access.flight = some f → f.kind = .posting id w → f.lost = true := by
  rw [Bool.not_eq_true', ← Bool.not_eq_true, inTransmission_iff]
  constructor
  · intro h f w hf hkind
    by_contra hlost
    exact h ⟨f, w, hf, hkind, by simpa using hlost⟩
  · rintro h ⟨f, w, hf, hkind, hlost⟩
    rw [h f w hf hkind] at hlost
    cases hlost

theorem deadlinePassed_iff (s : State) (p : Posting) : s.deadlinePassed p = true ↔ p.state = .waiting
    ∧ (∃ d, p.deadline = some d ∧ 2 ^ 47 ≤ ahead d s.shared)
    ∧ (∀ f w, s.access.flight = some f → f.kind = .posting p.id w → f.lost = true)
    ∧ s.tb.jumped = false ∧ ¬ s.waitsForStep := by
  unfold State.deadlinePassed
  cases hstate : p.state with
  | awaiting => simp
  | waiting =>
    cases hdeadline : p.deadline with
    | none => simp
    | some d =>
      simp only [Bool.and_eq_true, isPassed_iff, not_inTransmission_iff]
      simp only [Bool.not_eq_true', ← slewDue_iff, Bool.not_eq_true, and_assoc, true_and, Option.some.injEq, exists_eq_left']

theorem headDue_iff (s : State) : s.headDue = true ↔ s.control.station ≠ .prep ∧ ¬ s.waitsForStep
    ∧ ∃ h ∈ s.cues.held, h.fire = s.shared ∨ s.tb.stepped = some h.fire := by
  simp only [State.headDue, Bool.and_eq_true, opened_iff, Bool.not_eq_true', ← slewDue_iff, Bool.not_eq_true, List.any_eq_true,
    reaches_eq, Bool.or_eq_true, beq_iff_eq, and_assoc]

theorem edgeReached_iff_due (s : State) (c : ChannelNo) : s.edgeReached c = true ↔ s.control.station ≠ .prep ∧ ¬ s.waitsForStep
    ∧ ∃ o e, s.chan c = .output o ∧ o.run ≠ .idle ∧ o.nextTime = some e ∧ (e = s.shared ∨ s.tb.stepped = some e) := by
  rw [← slewDue_iff]
  cases hchan : s.chan c with
  | off | input => simp [State.edgeReached, hchan]
  | output o =>
    simp only [State.edgeReached, hchan, Bool.and_eq_true, opened_iff, Bool.not_eq_true', bne_iff_ne, Bool.not_eq_true, and_assoc]
    refine and_congr_right fun _ => and_congr_right fun _ => ?_
    cases hnext : o.nextTime with
    | none => simp [hnext]
    | some e => simp [hnext, reaches_eq]

theorem majority_eq (a b c : Bool) : majority a b c = mostly a b c := by
  revert a b c
  decide

theorem exists_history_iff {i : InputState} {x y z : Bool} (h : i.history = [x, y, z])
    (P : InputState → Bool → Bool → Bool → Prop) :
    (∃ i' x' y' z', Channel.input i = .input i' ∧ i'.history = [x', y', z'] ∧ P i' x' y' z') ↔ P i x y z := by
  constructor
  · rintro ⟨i', x', y', z', hi, hhistory, hp⟩
    obtain rfl := Channel.input.inj hi
    rw [h] at hhistory
    obtain ⟨rfl, rfl, rfl, -⟩ := by simpa using hhistory
    exact hp
  · exact fun hp => ⟨i, x, y, z, rfl, h, hp⟩

/-- The edge or the first level an INPUT channel has to take (R71). -/
theorem mem_inputEvents (c : ChannelNo) (ch : Channel) (e : Instr) : e ∈ inputEvents c ch ↔
    ∃ i x y z, ch = .input i ∧ i.history = [x, y, z] ∧ (i.level = none ∧ e = .firstInputLevel c (mostly x y z)
      ∨ i.level = some (!mostly x y z) ∧ e = .inputEdge c (mostly x y z)) := by
  cases ch with
  | off | output => simp [inputEvents]
  | input i =>
    rcases hhistory : i.history with _ | ⟨x, _ | ⟨y, _ | ⟨z, _ | ⟨w, rest⟩⟩⟩⟩
    case cons.cons.cons.nil =>
      rw [exists_history_iff hhistory fun i x y z => i.level = none ∧ e = .firstInputLevel c (mostly x y z)
        ∨ i.level = some (!mostly x y z) ∧ e = .inputEdge c (mostly x y z)]
      simp only [inputEvents, hhistory, majorityOf, majority_eq]
      generalize mostly x y z = m
      cases i.level with
      | none => simp
      | some l => cases l <;> cases m <;> simp [eventIf]
    all_goals simp [inputEvents, hhistory, majorityOf]

theorem quietSince_iff (s : State) (e : Time) : (s.sig.phase == .hunting && s.sig.waiting.isNone
    && reachedTime s.now (plusTicks e s.gapTicks)) = true ∧ s.waitSettled e = true ↔ s.quietSince e := by
  have hreached : reachedTime s.now (plusTicks e s.gapTicks) = true ↔
      (s.tb.localTime - (e + BitVec.ofNat 48 (15 * ticksPerBit s.sig.rate))).toNat < 2 ^ 47 := decide_eq_true_iff
  have hsettled : s.waitSettled e = true ↔
      (s.tb.localTime = e + BitVec.ofNat 48 (15 * ticksPerBit s.sig.rate) → 4 ≤ s.sig.taken) := by
    rw [State.waitSettled, Bool.or_eq_true, bne_iff_ne, decide_eq_true_iff, imp_iff_not_or]
    exact Iff.rfl
  rw [Bool.and_eq_true, Bool.and_eq_true, hreached, hsettled, beq_iff_eq, Option.isNone_iff_eq_none, and_assoc, and_assoc]
  exact Iff.rfl

theorem gapDue_iff (s : State) : s.gapDue = true ↔ ∃ a, s.frames.assembly = some a ∧ s.quietSince a.lastEnd := by
  unfold State.gapDue State.gapOver
  cases ha : s.frames.assembly with
  | none => simp
  | some a =>
    rw [Bool.and_eq_true, Option.any_some, quietSince_iff]
    simp

theorem cutWaitDue_iff (s : State) : s.cutWaitDue = true ↔
    s.access.condition = .cutWait ∧ ∃ e, s.access.cutEnd = some e ∧ s.quietSince e := by
  unfold State.cutWaitDue State.cutWaitOver
  cases hcondition : s.access.condition with
  | cutWait =>
    cases he : s.access.cutEnd with
    | none => simp
    | some e =>
      rw [Bool.and_eq_true, Option.any_some, quietSince_iff]
      simp
  | clear | receiving | sending | held => simp

theorem receiptsDue_iff (s : State) : s.receiptsDue = true ↔ s.receiptsBeatHolds ∧ s.access.receiptsPending = false := by
  rw [State.receiptsDue, Bool.and_eq_true, receiptsCondition_iff, Bool.not_eq_true']

theorem mayStart_iff_mayBegin (s : State) : s.mayStart = true ↔ s.mayBegin := by
  rw [mayStart_iff, ownSlotBegins_iff]
  simp only [slotBeginning_iff, State.mayBegin]
  constructor
  · rintro ⟨hstation, hclear, hflight, ⟨ref, k, href, hslot, howner⟩, hhigh, hedge⟩
    exact ⟨hstation, hclear, hflight, hhigh, hedge, ref, k, href, howner, hslot⟩
  · rintro ⟨hstation, hclear, hflight, hhigh, hedge, ref, k, href, howner, hslot⟩
    exact ⟨hstation, hclear, hflight, ⟨ref, k, href, hslot, howner⟩, hhigh, hedge⟩

theorem startDue_iff (s : State) : s.startDue = true ↔ s.sig.taken = 1 ∧ s.mayBegin ∧ s.chosen ≠ none := by
  have hstarting : s.starting.isSome = true ↔ s.mayBegin ∧ s.chosen ≠ none := by
    rw [State.starting, ← mayStart_iff_mayBegin]
    split
    · next h => simp [h, Option.isSome_iff_ne_none]
    · next h => simp [h]
  rw [State.startDue, Bool.and_eq_true, hstarting, State.startPlace, beq_iff_eq]

theorem mem_channelNumbers (c : ChannelNo) : c ∈ channelNumbers := by
  revert c
  decide

/-- An event is due exactly when its condition holds. -/
theorem mem_dueEvents (s : State) (event : Instr) : event ∈ s.dueEvents ↔ s.comesDue event := by
  simp only [State.dueEvents, List.mem_append, mem_eventIf, List.mem_map, List.mem_filter, List.mem_flatMap, mem_inputEvents,
    Bool.and_eq_true, Bool.not_eq_true', ← Bool.not_eq_true, slewDue_iff, periodExpired_iff, expiryWaits_iff, listenEnded_iff,
    lingerOver_iff, windowExpired_iff, deadlinePassed_iff, headDue_iff, edgeReached_iff_due, gapDue_iff, cutWaitDue_iff,
    receiptsDue_iff, startDue_iff, mem_channelNumbers, true_and]
  cases event <;> simp only [State.comesDue, reduceCtorEq, and_false, or_false, false_or, exists_false, and_true]
  case periodExpiry order =>
    rw [Instr.periodExpiry.injEq, and_assoc]
    exact Iff.rfl
  case responseWindowExpiry id =>
    refine exists_congr fun p => ?_
    rw [Instr.responseWindowExpiry.injEq, and_assoc, and_congr_right_iff]
    exact fun _ => and_comm
  case deadlinePassed id =>
    refine exists_congr fun p => ?_
    rw [Instr.deadlinePassed.injEq, Bool.not_eq_true, and_assoc, and_congr_right_iff]
    intro _
    constructor
    · rintro ⟨h, rfl⟩
      exact ⟨rfl, h⟩
    · rintro ⟨rfl, h⟩
      exact ⟨h, rfl⟩
  case edgeReached c =>
    constructor
    · rintro ⟨d, h, heq⟩
      cases heq
      exact h
    · exact fun h => ⟨c, h, rfl⟩
  case inputEdge c level =>
    constructor
    · rintro ⟨d, i, x, y, z, hd, hhistory, hlevel, heq⟩
      cases heq
      exact ⟨i, x, y, z, hd, hhistory, hlevel, rfl⟩
    · rintro ⟨i, x, y, z, hc, hhistory, hlevel, rfl⟩
      exact ⟨c, i, x, y, z, hc, hhistory, hlevel, rfl⟩
  case receiptsBeatPending => rw [Bool.not_eq_true]
  case firstInputLevel c level =>
    constructor
    · rintro ⟨d, i, x, y, z, hd, hhistory, hlevel, heq⟩
      cases heq
      exact ⟨i, x, y, z, hd, hhistory, hlevel, rfl⟩
    · rintro ⟨i, x, y, z, hc, hhistory, hlevel, rfl⟩
      exact ⟨c, i, x, y, z, hc, hhistory, hlevel, rfl⟩

/-! ## One sample of LRX (R176, R186, R187) -/

/-- The receiver leaves the held-line detector alone. -/
theorem receive_detector (s : State) (place : Nat) (level : Bool) (before : Option Bool) :
    (s.receive place level before).1.found = s.sig.found ∧ (s.receive place level before).1.runLength = s.sig.runLength := by
  unfold State.receive
  cases s.sig.phase with
  | hunting =>
    dsimp only
    unfold Signalling.hunt
    dsimp only
    repeat' split
    all_goals exact ⟨rfl, rfl⟩
  | startCheck =>
    dsimp only
    unfold Signalling.checkStart
    repeat' split
    all_goals exact ⟨rfl, rfl⟩
  | bits =>
    dsimp only
    unfold Signalling.decideBit
    repeat' split
    all_goals exact ⟨rfl, rfl⟩
  | echo =>
    dsimp only
    split
    · unfold Signalling.readEcho
      dsimp only
      repeat' split
      all_goals exact ⟨rfl, rfl⟩
    · exact ⟨rfl, rfl⟩

/-- The detector at a sample, its history as long as it is (R186, R187). -/
theorem detect_eq {q : Nat} (hq : 0 < q) (history : List Bool) (x : Signalling) :
    let run := match history with
      | [a, b, c] => if mostly a b c = x.found then x.runLength + 1 else 0
      | _ => x.runLength
    Signalling.detect q (majorityOf history) x = ({ x with runLength := run },
      if history.length = 3 ∧ (if x.found then 10 else 40) * q ≤ run then [if x.found then .heldEnd else .lineHeld] else []) := by
  rcases history with _ | ⟨a, _ | ⟨b, _ | ⟨c, _ | ⟨d, rest⟩⟩⟩⟩
  case cons.cons.cons.nil =>
    have hlimit : (if x.found = true then 10 * q else 40 * q) = (if x.found = true then 10 else 40) * q := by split <;> rfl
    have hpos : ¬ (if x.found = true then 10 else 40) * q ≤ 0 := by split <;> omega
    simp only [majorityOf, majority_eq, Signalling.detect, hlimit]
    by_cases hlevel : mostly a b c = x.found
    · simp [hlevel]
    · simp only [if_neg hlevel]
      exact Prod.ext rfl (if_neg fun h => hpos h.2).symm
  all_goals simp [majorityOf, Signalling.detect]

theorem takeSampleOfLine_eq (s : State) : takeSampleOfLine s = s.sampled := by
  have hq : 0 < s.samplesPerBit := by
    have := ticksPerBit_pos s.sig.rate
    rw [State.samplesPerBit]
    omega
  have hlevel : s.lrxLevel = s.world.lrx.headD (s.ltx s.sig.taken) := by
    unfold State.lrxLevel
    cases s.world.lrx <;> rfl
  obtain ⟨hfound, hrun⟩ := receive_detector s s.sig.taken (s.world.lrx.headD (s.ltx s.sig.taken)) s.sig.history.head?
  unfold takeSampleOfLine State.sampled
  rw [hlevel]
  simp only [detect_eq hq, hfound, hrun]
  rfl

/-! ## The next tick (R1, R2, R71) -/

theorem ticked_shared (s : State) : s.ticked.shared = s.shared + 1 := by
  show s.tb.localTime + 1 + s.tb.offset = s.tb.localTime + s.tb.offset + 1
  exact add_right_comm ..

theorem ticked_input {s : State} {c : ChannelNo} {i : InputState} (h : s.chan c = .input i) :
    s.ticked.chan c = .input { i with history := (s.ticked.world.pins.getLsbD c.toNat :: i.history).take 3 } := by
  rw [chan_ofFn (v := fun c => Channel.samplePin (s.world.nextPins.getLsbD c.val) s.chans[c]) s.ticked rfl c]
  have hc : s.chans[c.toFin] = .input i := h
  simp only [hc]
  rfl

theorem ticked_other {s : State} {c : ChannelNo} (h : ∀ i, s.chan c ≠ .input i) : s.ticked.chan c = s.chan c := by
  rw [chan_ofFn (v := fun c => Channel.samplePin (s.world.nextPins.getLsbD c.val) s.chans[c]) s.ticked rfl c]
  have hc : s.chans[c.toFin] = s.chan c := rfl
  simp only [hc]
  cases hchan : s.chan c with
  | input i => exact absurd hchan (h i)
  | off | output => rfl

/-- Where an event is due, one of the alternatives is taken (log 3). -/
theorem choice_of_due {s : State} (h : s.dueEvents ≠ []) : ∃ a, s.choice = some a ∧ a ∈ s.alternatives := by
  have hpos : 0 < s.alternatives.length := by
    rw [State.alternatives, List.length_append, List.length_map]
    have := List.length_pos_iff.mpr h
    omega
  unfold State.choice
  split
  · next hnil =>
    rw [hnil] at hpos
    cases hpos
  · next a ha => exact ⟨a, rfl, by rw [ha]; exact List.mem_singleton_self a⟩
  · have hlt : Config.freePick s.freeCount % s.alternatives.length < s.alternatives.length := Nat.mod_lt _ hpos
    exact ⟨_, List.getElem?_eq_getElem hlt, List.getElem_mem hlt⟩

/-- Settles O2: a step on an empty queue, and when an event is due. -/
theorem idleStepIsTheClock : Obligations.IdleStepIsTheClock := by
  refine ⟨fun s hpending hquiet htaken => ?_, fun s hpending hquiet htaken => ?_, fun s hpending hdue => ?_, mem_dueEvents⟩
  · intro comesRound aged later lapses
    have hchoice : s.choice = none := by
      have hfull : s.sampleDue = false := by simp [State.sampleDue, Nat.not_lt.mpr htaken]
      simp [State.choice, State.alternatives, hquiet, hfull]
    have hidle : idle s = lapseReceiptsBeat s.ticked := by
      rw [idle, hchoice]
      exact nextTick_eq s
    have hlapses : (s.ticked.access.receiptsPending && !s.ticked.receiptsCondition) = true ↔ lapses := by
      have hcondition : s.ticked.receiptsCondition = true ↔ later.receiptsBeatHolds := receiptsCondition_iff s.ticked
      rw [Bool.and_eq_true, Bool.not_eq_true', ← Bool.not_eq_true, hcondition]
      exact Iff.rfl
    have hframe := lapseReceiptsBeat_frame s.ticked
    obtain ⟨fpending, ftb, fcues, fchans, fmarks, froster, fpost, fframes, fsig, fcontrol, fport, fworld, ffree, fstep⟩ := hframe
    have fchan : ∀ c, (lapseReceiptsBeat s.ticked).chan c = s.ticked.chan c := fun c => by rw [State.chan, fchans, State.chan]
    refine ⟨_, step_empty s hpending, ?_⟩
    rw [hidle]
    refine ⟨by rw [ftb]; rfl, ?_, ftb, fun c i hc => ?_, fun c hc => (fchan c).trans (ticked_other hc), ?_, fsig, fun h => ?_, fun h => ?_,
      fpending.trans hpending, fcues, fmarks, froster, fpost, fframes, fcontrol, fport, ffree, fstep⟩
    · rw [State.shared, ftb]
      exact ticked_shared s
    · rw [fchan, fworld]
      exact ticked_input hc
    · rw [fworld]
      rfl
    · rw [lapseReceiptsBeat, if_pos (hlapses.mpr h)]
      rfl
    · rw [lapseReceiptsBeat, if_neg (mt hlapses.mp h)]
      rfl
  · have hstart := mt (startDue_iff s).mp (fun h => by simpa [hquiet] using (mem_dueEvents s .frameStart).mpr h)
    have hgap := mt (gapDue_iff s).mp (fun h => by simpa [hquiet] using (mem_dueEvents s .gapFound).mpr h)
    have hcut := mt (cutWaitDue_iff s).mp (fun h => by simpa [hquiet] using (mem_dueEvents s .cutWaitEnd).mpr h)
    have hsample : s.sampleDue = true := by simp [State.sampleDue, htaken, hstart, hgap, hcut]
    have hidle : idle s = takeSampleOfLine s := by
      simp [idle, State.choice, State.alternatives, hquiet, hsample]
    rw [step_empty s hpending, hidle, takeSampleOfLine_eq]
  · have hsome : ∃ a, s.choice = some a ∧ a ∈ s.alternatives := choice_of_due hdue
    obtain ⟨a, hchoice, hmem⟩ := hsome
    rw [State.alternatives, List.mem_append] at hmem
    cases a with
    | some e =>
      have he : e ∈ s.dueEvents := by
        obtain hmem | hmem := hmem
        · simpa using hmem
        · split at hmem <;> simp at hmem
      have hidle : idle s = { s with pending := [e], freeCount := s.freeCount + 1 } := by
        rw [idle, hchoice]
        show { s with pending := s.pending ++ [e], freeCount := s.freeCount + 1 } = _
        rw [hpending, List.nil_append]
      exact .inl ⟨e, he, by rw [step_empty s hpending, hidle]⟩
    | none =>
      have hsample : s.sampleDue = true := by
        obtain hmem | hmem := hmem
        · simp at hmem
        · by_contra hnot
          simp [hnot] at hmem
      simp only [State.sampleDue, Bool.and_eq_true, decide_eq_true_eq, Bool.not_eq_true', ← Bool.not_eq_true] at hsample
      obtain ⟨⟨⟨htaken, hstart⟩, hgap⟩, hcut⟩ := hsample
      have hidle : idle s = takeSampleOfLine s := by rw [idle, hchoice]
      refine .inr ⟨htaken, fun h => hstart ?_, fun h => hgap ?_, fun h => hcut ?_, by rw [step_empty s hpending, hidle, takeSampleOfLine_eq]⟩
      · exact (startDue_iff s).mpr ((mem_dueEvents s .frameStart).mp h)
      · exact (gapDue_iff s).mpr ((mem_dueEvents s .gapFound).mp h)
      · exact (cutWaitDue_iff s).mpr ((mem_dueEvents s .cutWaitEnd).mp h)

end Sys2Proof.Machine

/-! A period expiry: what it begins with, its sweep told entry by entry, and its evaluation. -/

namespace Sys2Proof.Machine

/-! ## When an expiry is taken (R6, log 32) -/

theorem periodOver_of_evaluatesNow {s : State} {c : ConfigRecord} (h : s.evaluatesNow c) : s.periodOver := by
  obtain ⟨hconfig, hopen, -, since, hstart, hover⟩ := h
  exact ⟨hopen, c, since, hconfig, hstart, hover⟩

theorem expiryWaits_of_evaluatesNow {s : State} {c : ConfigRecord} (h : s.evaluatesNow c) : s.expiryWaits = false := by
  obtain ⟨-, -, hfree, -⟩ := h
  rw [← Bool.not_eq_true, expiryWaits_iff]
  rintro ⟨hfixed, hmark, htaken⟩
  obtain h | h | h := hfree
  · rw [hfixed] at h; cases h
  · exact h hmark
  · rw [htaken] at h; cases h

theorem expirePeriod_taken {s : State} {c : ConfigRecord} (h : s.evaluatesNow c) (order : ExpiryOrder) :
    expirePeriod order s = takeExpiry order (nextPeriod s) := by
  have hover := (periodExpired_iff s).mpr (periodOver_of_evaluatesNow h)
  exact if_pos (by simp [hover, expiryWaits_of_evaluatesNow h])

/-- What the line access unit makes of an expiry (R161). -/
def LineAccess.atExpiry (station : StationState) (a : LineAccess) : LineAccess := if station = .active then a.beatDue else a

theorem expiryAtAccess_eq (s : State) : expiryAtAccess s = { s with access := s.access.atExpiry s.control.station } := by
  unfold expiryAtAccess LineAccess.atExpiry
  split <;> rfl

theorem atExpiry_eq (s : State) : s.access.atExpiry s.control.station = s.accessAtExpiry := by
  unfold LineAccess.atExpiry State.accessAtExpiry
  generalize s.access = a
  obtain ⟨_, _, _, _, _, _, due, _⟩ := a
  split
  · cases due <;> rfl
  · rfl

/-- The state an expiry is counted in, before it is handed on (R6, R161). -/
theorem begun_eq {s : State} {c : ConfigRecord} (hconfig : s.control.config = some c) : expiryAtAccess (nextPeriod s) = { s with
    tb := { s.tb with periodStart := s.tb.periodStart.map fun since => since + BitVec.ofNat 48 (beatPeriod c.beatCode) }
    access := s.accessAtExpiry } := by
  have hbeat : s.beat = beatPeriod c.beatCode := by rw [State.beat, hconfig]
  rw [expiryAtAccess_eq, ← atExpiry_eq, ← hbeat]
  rfl

/-! ## What the sweep and the evaluation find -/

/-- The sweep and the evaluation find the same in two states that differ in line access, the frame unit, the receiver and the
stamps held. -/
structure SameFigures (s u : State) : Prop where
  control : u.control = s.control
  roster : u.roster = s.roster
  post : u.post = s.post
  port : u.port = s.port
  cues : u.cues = s.cues
  chans : u.chans = s.chans
  stepFixed : u.stepFixed = s.stepFixed
  tb : u.tb = { s.tb with periodStart := u.tb.periodStart, departure := u.tb.departure, arrival := u.tb.arrival }

theorem SameFigures.trans {s u w : State} (h : SameFigures s u) (h' : SameFigures u w) : SameFigures s w where
  control := h'.control.trans h.control
  roster := h'.roster.trans h.roster
  post := h'.post.trans h.post
  port := h'.port.trans h.port
  cues := h'.cues.trans h.cues
  chans := h'.chans.trans h.chans
  stepFixed := h'.stepFixed.trans h.stepFixed
  tb := by rw [h'.tb, h.tb]

theorem sameFigures_nextPeriod (s : State) : SameFigures s (nextPeriod s) := by constructor <;> rfl

theorem sameFigures_expiryAtAccess (s : State) : SameFigures s (expiryAtAccess s) := by
  rw [expiryAtAccess_eq]
  constructor <;> rfl

theorem sameFigures_frameStart (s : State) : SameFigures s (frameStart s) := by
  unfold frameStart
  split <;> constructor <;> rfl

/-- The state the sweep and the evaluation of an expiry begin with (R7, log 31). -/
def State.figured (order : ExpiryOrder) (s : State) : State :=
  if order.beatFirst then frameStart (expiryAtAccess (nextPeriod s)) else nextPeriod s

theorem sameFigures_figured (order : ExpiryOrder) (s : State) : SameFigures s (s.figured order) := by
  unfold State.figured
  split
  · exact ((sameFigures_nextPeriod s).trans (sameFigures_expiryAtAccess _)).trans (sameFigures_frameStart _)
  · exact sameFigures_nextPeriod s

theorem takeExpiry_eq (order : ExpiryOrder) (s : State) : takeExpiry order (nextPeriod s)
    = if order.beatFirst then sweepAndEvaluate order (s.figured order)
      else expiryAtAccess (sweepAndEvaluate order (s.figured order)) := by
  unfold takeExpiry State.figured
  by_cases h : order.beatFirst = true
  · rw [if_pos h, if_pos h, if_pos h]
  · rw [if_neg h, if_neg h, if_neg h]

theorem SameFigures.beat {s u : State} (h : SameFigures s u) : u.beat = s.beat := by rw [State.beat, h.control, State.beat]

theorem SameFigures.now {s u : State} (h : SameFigures s u) : u.now = s.now := by rw [State.now, h.tb, State.now]

theorem SameFigures.shared {s u : State} (h : SameFigures s u) : u.shared = s.shared := by rw [State.shared, h.tb, State.shared]

theorem SameFigures.evaluation {s u : State} (h : SameFigures s u) : u.evaluation = s.evaluation :=
  evaluation_congr s u (by rw [h.tb]) h.roster (by rw [h.tb]) (by rw [h.tb]) h.control (by rw [h.tb])

theorem SameFigures.evaluation_sweep {s u : State} (h : SameFigures s u) : (sweep u).evaluation = (sweep s).evaluation := by
  have htb : ∀ w : State, (sweep w).tb = w.tb := fun w => by simp
  have hcontrol : ∀ w : State, (sweep w).control = w.control := fun w => by simp
  have hnow : u.tb.localTime = s.tb.localTime := by rw [h.tb]
  refine evaluation_congr (sweep s) (sweep u) ?_ (sweep_roster s u h.roster hnow h.control) ?_ ?_ ?_ ?_ <;>
    simp only [htb, hcontrol]
  · rw [h.tb]
  · exact hnow
  · rw [h.tb]
  · exact h.control
  · rw [h.tb]

/-! ## The sweep, told entry by entry (R91, R92) -/

/-- One entry of State.sweepTells. -/
def State.tellsOf (s : State) (beat : Nat) (u : State) (p : StationNo) : State :=
  match s.peer? p with
  | none => u
  | some x => x.tells p (x.swept beat s.tb.localTime).state u

theorem sweepTells_eq (s : State) (beat : Nat) (u : State) : s.sweepTells beat u = stations.foldl (s.tellsOf beat) u := rfl

/-- A relation that entries written on the left, and notices on both sides, keep. -/
structure Tellable (R : State → State → Prop) : Prop where
  setPeer : ∀ a b p x, R a b → R (setPeer p x a) b
  tells : ∀ a b (x : Peer) p new, R a b → R (x.tells p new a) (x.tells p new b)

/-- The sweep of some entries against the telling of them. -/
theorem sweepEntries_alike {R : State → State → Prop} (hR : Tellable R) (l : List StationNo) (hl : l.Nodup) {s a b : State}
    {beat : Nat} (hab : R a b) (hpeers : ∀ p ∈ l, a.peer? p = s.peer? p) (hbeat : a.beat = beat)
    (hnow : a.now = s.tb.localTime) : R (l.foldl sweepEntry a) (l.foldl (s.tellsOf beat) b) := by
  induction l generalizing a b with
  | nil => exact hab
  | cons p l ih =>
    obtain ⟨hp, hl⟩ := List.nodup_cons.mp hl
    have hstep : R (sweepEntry a p) (s.tellsOf beat b p) := by
      have hpeer := hpeers p List.mem_cons_self
      unfold State.tellsOf
      cases hx : s.peer? p with
      | none =>
        have hsame : sweepEntry a p = a := by simp [sweepEntry, hpeer, hx]
        rw [hsame]
        exact hab
      | some x =>
        rw [sweepEntry_of_peer (hpeer.trans hx), hbeat, hnow]
        exact hR.tells _ _ _ _ _ (hR.setPeer _ _ _ _ hab)
    rw [List.foldl_cons, List.foldl_cons]
    refine ih hl hstep (fun q hq => ?_) (by rw [← hbeat]; simp [State.beat]) (by rw [← hnow]; simp [State.now])
    have hne : q ≠ p := fun heq => hp (heq ▸ hq)
    rw [peer?_sweepEntry, if_neg hne, hpeers q (List.mem_cons_of_mem p hq)]

theorem sweep_alike {R : State → State → Prop} (hR : Tellable R) {s a b : State} {beat : Nat} (hab : R a b)
    (hroster : a.roster = s.roster) (hbeat : a.beat = beat) (hnow : a.now = s.tb.localTime) :
    R (sweep a) (s.sweepTells beat b) :=
  sweepEntries_alike hR stations nodup_stations hab (fun p _ => peer?_congr s a hroster p) hbeat hnow

theorem tellable_sameReports : Tellable SameReports where
  setPeer := fun a _ p x h => (sameReports_setPeer p x a).trans h
  tells := fun a b x p new h => by
    unfold Peer.tells
    split
    · exact (h.queueReports _).absentNotice p
    · exact h.queueReports _

/-! ## The postings and the frame in flight under the sweep's notices -/

/-- A change of line access that does not meet the frame in flight. -/
def FlightBlind (g : LineAccess → LineAccess) : Prop :=
  ∀ (a : LineAccess) (f : Flight → Flight), g { a with flight := a.flight.map f } = { g a with flight := (g a).flight.map f }

theorem flightBlind_id : FlightBlind id := fun _ _ => rfl

theorem flightBlind_atExpiry (station : StationState) : FlightBlind (LineAccess.atExpiry station) := fun a f => by
  unfold LineAccess.atExpiry LineAccess.beatDue
  split
  · cases a.due <;> rfl
  · rfl

/-- The same postings, and line access changed by g. -/
structure NotedAlike (g : LineAccess → LineAccess) (a b : State) : Prop where
  post : b.post = a.post
  access : b.access = g a.access

theorem NotedAlike.posting? {g : LineAccess → LineAccess} {a b : State} (h : NotedAlike g a b) (id : Byte) :
    b.posting? id = a.posting? id := by rw [State.posting?, State.posting?, h.post]

theorem NotedAlike.queueReports {g : LineAccess → LineAccess} {a b : State} (h : NotedAlike g a b) (bs : List ReportBody) :
    NotedAlike g (queueReports bs a) (queueReports bs b) := ⟨by simp [h.post], by simp [h.access]⟩

theorem NotedAlike.setPosting {g : LineAccess → LineAccess} {a b : State} (h : NotedAlike g a b) (q : Posting) :
    NotedAlike g (setPosting q a) (setPosting q b) := by
  exact ⟨congrArg (fun u : PostingUnit => { u with list := u.list.map fun x : Posting => if x.id == q.id then q else x }) h.post,
    h.access⟩

theorem NotedAlike.finishPosting {g : LineAccess → LineAccess} (hg : FlightBlind g) {a b : State} (h : NotedAlike g a b) (id : Byte)
    (o : PostOutcome) : NotedAlike g (finishPosting id o a) (finishPosting id o b) := by
  unfold Machine.finishPosting
  rw [h.posting? id]
  split
  · exact h
  · refine ⟨congrArg (fun u : PostingUnit => { u with list := u.list.eraseP fun q => q.id == id }) h.post, ?_⟩
    show ({ b.access with flight := b.access.flight.map (Flight.losePosting id) } : LineAccess)
      = g { a.access with flight := a.access.flight.map (Flight.losePosting id) }
    rw [hg, h.access]

theorem NotedAlike.completionTest {g : LineAccess → LineAccess} (hg : FlightBlind g) {a b : State} (h : NotedAlike g a b)
    (id : Byte) : NotedAlike g (completionTest id a) (completionTest id b) := by
  unfold Machine.completionTest
  rw [h.posting? id]
  split
  · exact h
  · split
    · exact h.finishPosting hg id .complete
    · exact h

theorem NotedAlike.absentAtPosting {g : LineAccess → LineAccess} (hg : FlightBlind g) {a b : State} (h : NotedAlike g a b)
    (p : StationNo) (id : Byte) : NotedAlike g (absentAtPosting p id a) (absentAtPosting p id b) := by
  unfold Machine.absentAtPosting
  rw [h.posting? id]
  split
  · exact h
  · next q _ =>
    exact (h.setPosting _).completionTest hg id

theorem NotedAlike.absentNotice {g : LineAccess → LineAccess} (hg : FlightBlind g) {a b : State} (h : NotedAlike g a b)
    (p : StationNo) : NotedAlike g (absentNotice p a) (absentNotice p b) := by
  unfold Machine.absentNotice
  rw [h.post]
  generalize (a.post.list.filter fun q => q.expects p).map Posting.id = ids
  induction ids generalizing a b with
  | nil => exact h
  | cons id ids ih => exact ih (h.absentAtPosting hg p id)

theorem tellable_notedAlike {g : LineAccess → LineAccess} (hg : FlightBlind g) : Tellable (NotedAlike g) where
  setPeer := fun a b p x h => ⟨by simpa using h.post, by simpa using h.access⟩
  tells := fun a b x p new h => by
    unfold Peer.tells
    split
    · exact (h.queueReports _).absentNotice hg p
    · exact h.queueReports _

end Sys2Proof.Machine

/-! A period expiry outside a jump, and what every one of them leaves (R6, R14 to R22). -/

namespace Sys2Proof.Machine

/-! ## The evaluation's timebase (R14, R18) -/

theorem jumps_iff (c : ConfigRecord) (start : TbState) (correction : Int) :
    c.jumps start correction = true ↔ jumpsFrom c start correction := by
  have hsize : c.jump.toNat < correction.natAbs ↔ (c.jump.toNat : Int) < |correction| := by
    rw [Int.abs_eq_natAbs]
    omega
  unfold ConfigRecord.jumps jumpsFrom
  rw [Bool.and_eq_true, decide_eq_true_eq, hsize]
  cases start <;> simp [TbState.isSettled]

/-- The stamps held do not enter a transition. -/
theorem transition_stamps (c : ConfigRecord) (e : Evaluation) (t : Timebase) (periodStart : Option Time)
    (departure : Option Time) (arrival : Option ArrivalStamp) :
    Timebase.transition c e { t with periodStart := periodStart, departure := departure, arrival := arrival }
      = { Timebase.transition c e t with periodStart := periodStart, departure := departure, arrival := arrival } := by
  obtain ⟨_, _, _, state, _⟩ := t
  unfold Timebase.transition
  cases state <;> simp only [] <;> split_ifs <;> rfl

theorem SameFigures.transition {s u : State} (h : SameFigures s u) (c : ConfigRecord) (e : Evaluation) :
    Timebase.transition c e u.tb = { Timebase.transition c e s.tb with
      periodStart := u.tb.periodStart, departure := u.tb.departure, arrival := u.tb.arrival } := by
  rw [h.tb]
  exact transition_stamps ..

/-- The apply step of an evaluation that jumps (R18). -/
theorem apply_of_jump {c : ConfigRecord} {x : Int} {t : Timebase} (h : jumpsFrom c t.tbState x) :
    (Timebase.apply c x t).offset = t.offset + BitVec.ofInt 48 x ∧ (Timebase.apply c x t).correction = 0 := by
  rw [Timebase.apply, if_pos ((jumps_iff ..).mpr h)]
  exact ⟨rfl, rfl⟩

/-- The apply step of an evaluation that does not jump (R18). -/
theorem apply_of_no_jump {c : ConfigRecord} {x : Int} {t : Timebase} (h : ¬ jumpsFrom c t.tbState x) :
    (Timebase.apply c x t).offset = t.offset ∧ (Timebase.apply c x t).correction
      = if t.tbState = .solo ∨ t.tbState = .gathering then x else max (-(c.jump.toNat : Int)) (min (c.jump.toNat : Int) x) := by
  rw [Timebase.apply, if_neg (mt (jumps_iff ..).mp h)]
  cases t.tbState <;> exact ⟨rfl, rfl⟩

/-! ## The sweep and the evaluation together -/

/-- The evaluation the sweep stands before or after. -/
def State.evaluationBy (order : ExpiryOrder) (s : State) : Evaluation :=
  if order.sweepFirst then (sweep s).evaluation else s.evaluation

theorem SameFigures.evaluationBy {s u : State} (h : SameFigures s u) (order : ExpiryOrder) :
    u.evaluationBy order = s.evaluationBy order := by
  rw [State.evaluationBy, State.evaluationBy, h.evaluation, h.evaluation_sweep]

theorem sweepAndEvaluate_tb {s : State} {c : ConfigRecord} (hconfig : s.control.config = some c) (order : ExpiryOrder) :
    (sweepAndEvaluate order s).tb = Timebase.evaluated c (s.evaluationBy order) s.tb := by
  unfold sweepAndEvaluate State.evaluationBy
  split
  · rw [evaluate_tb order (sweep s) c (by simpa using hconfig)]
    simp
  · have htb : (sweep (evaluate order s)).tb = (evaluate order s).tb := by simp
    rw [htb, evaluate_tb order s c hconfig]

/-- An evaluation that does not jump queues its change report and nothing else (R22). -/
theorem evaluate_of_no_jump {s : State} {c : ConfigRecord} (hconfig : s.control.config = some c)
    (h : ¬ jumpsFrom c s.tb.tbState s.evaluation.correction) (order : ExpiryOrder) : evaluate order s
      = queueReports (changeReports s.tb.tbState (Timebase.transition c s.evaluation s.tb).tbState s.evaluation)
        (s.onTb (Timebase.evaluated c s.evaluation)) := by
  have hstate : (s.onTb (Timebase.evaluated c s.evaluation)).tb.tbState = (Timebase.transition c s.evaluation s.tb).tbState :=
    (evaluated_fields c s.evaluation s.tb).1
  have hstays : c.jumps s.tb.tbState s.evaluation.correction = false := Bool.eq_false_iff.mpr (mt (jumps_iff ..).mp h)
  simp only [evaluate, hconfig, hstays, announce, Bool.false_eq_true, if_false, ite_self]
  rw [hstate]

@[simp] theorem setPeer_twinCount (p : StationNo) (x : Peer) (s : State) : (setPeer p x s).roster.twinCount = s.roster.twinCount := by
  unfold setPeer
  split <;> rfl

theorem sweepEntry_twinCount (s : State) (p : StationNo) : (sweepEntry s p).roster.twinCount = s.roster.twinCount := by
  cases he : s.peer? p with
  | none => simp [sweepEntry, he]
  | some e => rw [sweepEntry_of_peer he, tells_roster, setPeer_twinCount]

theorem sweep_twinCount (s : State) : (sweep s).roster.twinCount = s.roster.twinCount := by
  unfold sweep
  exact foldl_inv s (fun u => u.roster.twinCount = s.roster.twinCount) sweepEntry stations
    (fun u p _ hu => (sweepEntry_twinCount u p).trans hu) rfl

theorem evaluate_localTime (order : ExpiryOrder) (s : State) : (evaluate order s).tb.localTime = s.tb.localTime := by
  cases hconfig : s.control.config with
  | none => simp [evaluate, hconfig]
  | some c =>
    obtain ⟨-, -, -, -, -, -, hlocal, -⟩ := evaluated_fields c s.evaluation s.tb
    rw [evaluate_tb order s c hconfig, hlocal]

/-- The roster after the sweep and the evaluation: the sweep's (R14, R92). -/
theorem sweepAndEvaluate_roster (order : ExpiryOrder) (s : State) :
    (sweepAndEvaluate order s).roster = (sweep s).roster := by
  unfold sweepAndEvaluate
  split
  · simp
  · exact sweep_roster s (evaluate order s) (by simp) (evaluate_localTime order s) (by simp)

theorem SameFigures.peer? {s u : State} (h : SameFigures s u) (p : StationNo) : u.peer? p = s.peer? p := peer?_congr _ _ h.roster p

/-- Reports and postings after the sweep and the evaluation, from those of any state that begins alike. -/
theorem sweepAndEvaluate_postings {g : LineAccess → LineAccess} (hg : FlightBlind g) {s u v : State} (hu : SameFigures s u)
    (hv : NotedAlike g u v) (order : ExpiryOrder) : NotedAlike g (sweepAndEvaluate order u) (s.sweepTells s.beat v) := by
  unfold sweepAndEvaluate
  split
  · have h := sweep_alike (tellable_notedAlike hg) hv hu.roster hu.beat hu.now
    exact ⟨h.post.trans (by simp), h.access.trans (by simp)⟩
  · refine sweep_alike (tellable_notedAlike hg) ⟨hv.post.trans (by simp), hv.access.trans (by simp)⟩ (by simpa using hu.roster) ?_ ?_
    · rw [← hu.beat]
      simp [State.beat]
    · rw [← State.now, ← hu.now, State.now, State.now, evaluate_localTime]

/-- The reports of a sweep and an evaluation that does not jump (R22, R91). -/
theorem sweepAndEvaluate_reports {s u v : State} {c : ConfigRecord} (hconfig : s.control.config = some c) (hu : SameFigures s u)
    (hv : SameReports u v) (order : ExpiryOrder) (hstays : ¬ jumpsFrom c s.tb.tbState (s.evaluationBy order).correction) :
    SameReports (sweepAndEvaluate order u) (if order.sweepFirst
      then queueReports (changeReports s.tb.tbState (Timebase.transition c (s.evaluationBy order) s.tb).tbState (s.evaluationBy order))
        (s.sweepTells s.beat v)
      else s.sweepTells s.beat (queueReports
        (changeReports s.tb.tbState (Timebase.transition c (s.evaluationBy order) s.tb).tbState (s.evaluationBy order)) v)) := by
  have honTb : ∀ (w : State) (e : Evaluation), SameReports (w.onTb (Timebase.evaluated c e)) w := fun w e => by
    obtain ⟨-, -, -, -, -, -, hlocal, -⟩ := evaluated_fields c e w.tb
    exact ⟨rfl, rfl, rfl, hlocal⟩
  have hstate : u.tb.tbState = s.tb.tbState := by rw [hu.tb]
  have hnext : ∀ e, (Timebase.transition c e u.tb).tbState = (Timebase.transition c e s.tb).tbState := fun e => by
    rw [hu.transition]
  have htb : (sweep u).tb = u.tb := by simp
  unfold sweepAndEvaluate
  unfold State.evaluationBy at hstays ⊢
  split
  · next hfirst =>
    rw [if_pos hfirst, ← hu.evaluation_sweep, ← hstate] at hstays
    rw [evaluate_of_no_jump (c := c) (by simp [hu.control, hconfig]) (by rwa [htb]), ← hu.evaluation_sweep, htb, hstate, hnext]
    exact ((honTb _ _).trans (sweep_alike tellable_sameReports hv hu.roster hu.beat hu.now)).queueReports _
  · next hfirst =>
    rw [if_neg hfirst, ← hu.evaluation, ← hstate] at hstays
    rw [evaluate_of_no_jump (by rw [hu.control, hconfig]) hstays, ← hu.evaluation, hstate, hnext]
    refine sweep_alike tellable_sameReports (((honTb _ _).trans hv).queueReports _) (by simpa using hu.roster) ?_ ?_
    · rw [← hu.beat]
      simp [State.beat]
    · obtain ⟨-, -, -, -, -, -, hlocal, -⟩ := evaluated_fields c u.evaluation u.tb
      rw [← State.now, ← hu.now, State.now]
      simpa [State.now] using hlocal

/-! ## The expiry (R6) -/

/-- What the line access unit still makes of an expiry after the evaluation (R6, R161). -/
def accessAtEnd (order : ExpiryOrder) (station : StationState) : LineAccess → LineAccess :=
  if order.beatFirst then id else LineAccess.atExpiry station

theorem flightBlind_accessAtEnd (order : ExpiryOrder) (station : StationState) : FlightBlind (accessAtEnd order station) := by
  unfold accessAtEnd
  split
  · exact flightBlind_id
  · exact flightBlind_atExpiry station

theorem expiryAtAccess_of_station {s : State} {station : StationState} (h : s.control.station = station) :
    expiryAtAccess s = { s with access := s.access.atExpiry station } := h ▸ expiryAtAccess_eq s

theorem expirePeriod_eq {s : State} {c : ConfigRecord} (h : s.evaluatesNow c) (order : ExpiryOrder) :
    expirePeriod order s = { sweepAndEvaluate order (s.figured order) with
      access := accessAtEnd order s.control.station (sweepAndEvaluate order (s.figured order)).access } := by
  have hstation : (sweepAndEvaluate order (s.figured order)).control.station = s.control.station := by
    simp [(sameFigures_figured order s).control]
  rw [expirePeriod_taken h, takeExpiry_eq, expiryAtAccess_of_station hstation, accessAtEnd]
  split <;> rfl

/-- The state O25 calls v: what the sweep and the evaluation begin with, and the line access unit done with the expiry. -/
def State.begun (order : ExpiryOrder) (s : State) : State :=
  { s.figured order with access := accessAtEnd order s.control.station (s.figured order).access }

theorem begun_of_frameStart {s v : State} {c : ConfigRecord} (hconfig : s.control.config = some c) {order : ExpiryOrder}
    (hfirst : order.beatFirst = true → exec .frameStart { s with
      tb := { s.tb with periodStart := s.tb.periodStart.map fun since => since + BitVec.ofNat 48 (beatPeriod c.beatCode) }
      access := s.accessAtExpiry } = .next v)
    (hlast : order.beatFirst = false → v = { s with
      tb := { s.tb with periodStart := s.tb.periodStart.map fun since => since + BitVec.ofNat 48 (beatPeriod c.beatCode) }
      access := s.accessAtExpiry }) : v = s.begun order := by
  rw [← begun_eq hconfig, exec_eq, Host.Outcome.next.injEq] at hfirst
  rw [← begun_eq hconfig] at hlast
  unfold State.begun State.figured accessAtEnd
  cases hbeat : order.beatFirst with
  | true => exact (hfirst hbeat).symm
  | false =>
    rw [hlast hbeat, expiryAtAccess_eq]
    rfl

/-- An evaluation that does not jump leaves the cue table, the channels and a fixed slew step alone (R18). -/
theorem sweepAndEvaluate_outputs {s : State} {c : ConfigRecord} (hconfig : s.control.config = some c) {order : ExpiryOrder}
    (hstays : ¬ jumpsFrom c s.tb.tbState (s.evaluationBy order).correction) :
    (sweepAndEvaluate order s).cues = s.cues ∧ (sweepAndEvaluate order s).chans = s.chans
      ∧ (sweepAndEvaluate order s).stepFixed = s.stepFixed := by
  unfold sweepAndEvaluate
  unfold State.evaluationBy at hstays
  split
  · next hfirst =>
    rw [if_pos hfirst] at hstays
    rw [evaluate_of_no_jump (c := c) (by simpa using hconfig) (by simpa using hstays)]
    simp [State.onTb]
  · next hfirst =>
    rw [if_neg hfirst] at hstays
    rw [evaluate_of_no_jump hconfig hstays]
    simp [State.onTb]

theorem figured_frame (order : ExpiryOrder) (s : State) : (s.figured order).marks = s.marks
    ∧ (s.figured order).pending = s.pending ∧ (s.figured order).world = s.world ∧ (s.figured order).freeCount = s.freeCount := by
  unfold State.figured
  split <;> simp

/-- Settles O25: the sweep and the evaluation of the figures that stand, with the line access unit before or after them. -/
theorem periodExpiryEvaluatesAndSweeps : Obligations.PeriodExpiryEvaluatesAndSweeps := by
  refine ⟨fun s v c order e hnow he => ?_, fun s order hfixed hmark htaken => ?_⟩
  · intro begun hfirst hlast next swept sweeps change
    have hconfig := hnow.1
    obtain rfl : v = s.begun order := begun_of_frameStart hconfig hfirst hlast
    obtain rfl : e = s.evaluationBy order := he
    have hu := sameFigures_figured order s
    have hbeat : beatPeriod c.beatCode = s.beat := by rw [State.beat, hconfig]
    obtain ⟨hpost, haccess⟩ := sweepAndEvaluate_postings (flightBlind_accessAtEnd order s.control.station) hu
      (v := s.begun order) ⟨rfl, rfl⟩ order
    rw [← hbeat] at hpost haccess
    have htb := sweepAndEvaluate_tb (s := s.figured order) (by rw [hu.control, hconfig]) order
    rw [hu.evaluationBy] at htb
    obtain ⟨hstate, hagree, hdis, hhold, hspread, hstart, hlocal, hsamples, hdep, harr, hoffset, hcorrection⟩ :=
      evaluated_fields c (s.evaluationBy order) (s.figured order).tb
    rw [← htb] at hstate hagree hdis hhold hspread hstart hlocal hsamples hdep harr hoffset hcorrection
    have htbState : (s.figured order).tb.tbState = s.tb.tbState := by rw [hu.tb]
    have hlocal' : (s.figured order).tb.localTime = s.tb.localTime := hu.now
    obtain ⟨hmarks, hpending, hworld, hfree⟩ := figured_frame order s
    refine ⟨_, (exec_eq s (.periodExpiry order)).trans (congrArg _ (expirePeriod_eq hnow order)), hstart, hlocal.trans hu.now,
      hsamples.trans (by rw [hu.tb]), hdep, harr, fun hjumps => ?_, fun hstays => ?_, hspread, hstate.trans (by rw [hu.transition]),
      hagree.trans (by rw [hu.transition]), hdis.trans (by rw [hu.transition]), hhold.trans (by rw [hu.transition]),
      fun p x hx => ?_, ?_, ?_, ?_, fun hstays => ?_, ?_, ?_, ?_, ?_, ?_, ?_, ?_⟩
    · obtain ⟨hto, hzero⟩ := apply_of_jump (t := (s.figured order).tb) (htbState ▸ hjumps)
      exact ⟨hoffset.trans (hto.trans (by rw [hu.tb])), hcorrection.trans hzero⟩
    · obtain ⟨hto, hset⟩ := apply_of_no_jump (t := (s.figured order).tb) (htbState ▸ hstays)
      obtain ⟨hcues, hchans, hfixed⟩ := sweepAndEvaluate_outputs (s := s.figured order) (by rw [hu.control, hconfig])
        (by rw [htbState, hu.evaluationBy]; exact hstays)
      exact ⟨hoffset.trans (hto.trans (by rw [hu.tb])), hcorrection.trans (hset.trans (by rw [htbState])), hcues.trans hu.cues,
        hchans.trans hu.chans, hfixed.trans hu.stepFixed⟩
    · refine (peer?_congr _ _ (sweepAndEvaluate_roster order _) p).trans ?_
      rw [peer?_sweep, hu.peer?, hx, hu.beat, hu.now, ← hbeat]
      rfl
    · refine (congrArg Roster.twinCount (sweepAndEvaluate_roster order _)).trans ((sweep_twinCount _).trans ?_)
      rw [hu.roster]
    · exact hpost.symm
    · exact haccess.symm
    · have hreports := sweepAndEvaluate_reports hconfig hu (v := s.begun order) ⟨rfl, rfl, rfl, rfl⟩ order hstays
      rw [← hbeat] at hreports
      exact hreports.port
    · simp [hmarks]
    · simp [State.begun]
    · simp [State.begun]
    · simp [hu.control]
    · simp [hpending]
    · simp [hworld]
    · simp [hfree]
  · have hwaits : s.expiryWaits = true := by
      rw [expiryWaits_iff]
      exact ⟨hfixed, hmark, htaken⟩
    have hsame : after (.periodExpiry order) s = s := if_neg (by simp [hwaits])
    exact (exec_eq s (.periodExpiry order)).trans (congrArg Host.Outcome.next hsame)

end Sys2Proof.Machine

/-! A forward jump: its notices, its firings, and the expiry that makes it (R18, R45, R63, R64). -/

namespace Sys2Proof.Machine

/-! ## The notice of a forward jump at a channel (R63) -/

theorem chans_set_chan {s : State} {i : ChannelNo} {c : Channel} (h : s.chan i = c) : { s with chans := s.chans.set i.toNat c } = s := by
  have hget : s.chans[i.toNat] = c := h
  rw [← hget, Vector.set_getElem_self]

theorem jumped_idle {o : OutputState} (h : o.run = .idle) (before : Time) (x : Int) : o.jumped before x = o := by
  unfold OutputState.jumped
  cases o.nextTime with
  | none => rfl
  | some edge => exact if_neg fun hrun => hrun.1 h

theorem jumped_noEdge {o : OutputState} (h : o.nextTime = none) (before : Time) (x : Int) : o.jumped before x = o := by
  unfold OutputState.jumped
  rw [h]

theorem jumped_edge {o : OutputState} {edge : Time} (hrun : o.run ≠ .idle) (h : o.nextTime = some edge) (before : Time) (x : Int) :
    o.jumped before x = if (ahead edge before : Int) < x
      then (if o.nextEdge = some .finish then { o with completed := o.completed + 1, left := o.left - 1 } else o).stopped
      else o := by
  unfold OutputState.jumped
  rw [h]
  simp only [hrun, ne_eq, not_false_eq_true, true_and]

/-- The report of a run a forward jump ends (R66). -/
def OutputState.jumpReports (o : OutputState) (channel : ChannelNo) (before after : Time) (x : Int) : List ReportBody :=
  if decide (o.run ≠ .idle ∧ o.report ∧ 0 < (o.jumped before x).left)
      && o.nextTime.any fun edge => decide ((ahead edge before : Int) < x) then [.cueCut {
    key := o.key.getD { origin := 0, serial := 0 }
    channel := channel
    completed := (o.jumped before x).completed
    count := (o.jumped before x).completed + (o.jumped before x).left
    cutting := none
    time := after }] else []

theorem jumpReports_length (o : OutputState) (i : ChannelNo) (before after : Time) (x : Int) :
    (o.jumpReports i before after x).length ≤ 1 := by
  unfold OutputState.jumpReports
  split <;> simp

theorem noticed_output {s : State} {i : ChannelNo} {o : OutputState} (h : s.chan i = .output o) (before after : Time) (x : Int) :
    s.noticed before after x i = queueReports (o.jumpReports i before after x)
      { s with chans := s.chans.set i.toNat (.output (o.jumped before x)) } := by
  unfold State.noticed
  rw [h]
  rfl

theorem noticed_other {s : State} {i : ChannelNo} (h : ∀ o, s.chan i ≠ .output o) (before after : Time) (x : Int) :
    s.noticed before after x i = s := by
  unfold State.noticed
  cases hc : s.chan i with
  | output o => exact absurd hc (h o)
  | off | input => rfl

/-- A channel that its notice leaves as it is. -/
theorem noticed_stays {s : State} {i : ChannelNo} {o : OutputState} (h : s.chan i = .output o) {before : Time} {x : Int}
    (hstays : o.jumped before x = o) (hquiet : o.run = .idle ∨ o.nextTime.any (fun edge => decide ((ahead edge before : Int) < x)) = false)
    (after : Time) : s.noticed before after x i = s := by
  have hreports : o.jumpReports i before after x = [] := by
    refine if_neg ?_
    obtain hidle | hfar := hquiet
    · simp [hidle]
    · simp [hfar]
  rw [noticed_output h, hreports, hstays]
  exact chans_set_chan h

/-- A run its notice ends, with its report (R63, R66). -/
theorem endPassed_eq (o : OutputState) (i : ChannelNo) {edge before : Time} {x : Int} (hrun : o.run ≠ .idle)
    (hedge : o.nextTime = some edge) (hnear : (ahead edge before : Int) < x) (after : Time) :
    o.endPassed i after = (o.jumped before x, o.jumpReports i before after x) := by
  have hany : o.nextTime.any (fun edge => decide ((ahead edge before : Int) < x)) = true := by simp [hedge, hnear]
  unfold OutputState.jumpReports
  rw [jumped_edge hrun hedge, if_pos hnear, hany]
  unfold OutputState.endPassed
  cases hnext : o.nextEdge with
  | none => simp [hrun, OutputState.stopped, OutputState.toIdle, OutputState.cutReport, OutputState.count, and_comm]
  | some kind =>
    cases kind <;>
      simp [hrun, OutputState.stopped, OutputState.toIdle, OutputState.cutReport, OutputState.count, and_comm]

/-- The notice at a channel whose run has an edge to come (R63). -/
theorem noticeAtChannel_edge {s : State} {i : ChannelNo} {o : OutputState} {edge : Time} (hc : s.chan i = .output o)
    (hrun : o.run ≠ .idle) (hedge : o.nextTime = some edge) (before after : Time) (x : Nat) :
    noticeAtChannel before after x s i = if ahead edge before < x
      then queueReports (o.endPassed i after).2 (setChan i (.output (o.endPassed i after).1) s) else s := by
  unfold noticeAtChannel
  rw [hc]
  cases hkind : o.run with
  | idle => exact absurd hkind hrun
  | pulse | train => simp [hkind, hedge]

theorem noticeAtChannel_eq (before after : Time) {x : Int} (hx : 0 < x) (s : State) (i : ChannelNo) :
    noticeAtChannel before after x.toNat s i = s.noticed before after x i := by
  cases hc : s.chan i with
  | off | input =>
    rw [noticed_other (by simp [hc])]
    simp [noticeAtChannel, hc]
  | output o =>
    by_cases hrun : o.run = .idle
    · rw [noticed_stays hc (jumped_idle hrun ..) (.inl hrun)]
      simp [noticeAtChannel, hc, hrun]
    · cases hedge : o.nextTime with
      | none =>
        rw [noticed_stays hc (jumped_noEdge hedge ..) (.inr (by simp [hedge]))]
        cases hkind : o.run <;> simp [noticeAtChannel, hc, hkind, hedge]
      | some edge =>
        have hnear : ahead edge before < x.toNat ↔ (ahead edge before : Int) < x := by omega
        rw [noticeAtChannel_edge hc hrun hedge]
        by_cases h : (ahead edge before : Int) < x
        · rw [if_pos (hnear.mpr h), endPassed_eq o i hrun hedge h, noticed_output hc]
          rfl
        · rw [if_neg (mt hnear.mp h), noticed_stays hc ((jumped_edge hrun hedge ..).trans (if_neg h)) (.inr (by simp [hedge, h]))]

/-! ## What the jump does, as one function of the state it begins in (R45, R64) -/

/-- What O37 says of a forward jump: the notices before the firings, the firings in table order, the notices after them. -/
structure Jump where
  noticeFirst : BitVec 8
  before : Time
  after : Time
  correction : Int
  next : TbState

/-- The notices of a jump before its firings, or after them. -/
def Jump.notices (j : Jump) (first : Bool) : State → State :=
  (channelNumbers.filter fun i => j.noticeFirst.getLsbD i.toNat = first).foldl (State.noticed j.before j.after j.correction)

/-- The firings of a jump. -/
def Jump.firings (j : Jump) (gone : List HeldEntry) (s : State) : State :=
  gone.foldl (fun u h => u.firesEntry j.after (decide (h.fire ≠ j.after)) j.next h) s

def Jump.run (j : Jump) (gone : List HeldEntry) (s : State) : State := j.notices false (j.firings gone (j.notices true s))

/-- The entries a jump reaches (R45). -/
def Jump.gone (j : Jump) (held : List HeldEntry) : List HeldEntry :=
  held.filter fun h => decide ((ahead h.fire j.before : Int) ≤ j.correction)

theorem noticeChannels_eq (j : Jump) (hx : 0 < j.correction) (which : ChannelNo → Bool) (first : Bool)
    (hwhich : ∀ i : ChannelNo, which i = decide (j.noticeFirst.getLsbD i.toNat = first)) (s : State) :
    noticeChannels which j.before j.after j.correction.toNat s = j.notices first s := by
  unfold noticeChannels Jump.notices
  rw [funext hwhich, funext fun s => funext fun i => noticeAtChannel_eq j.before j.after hx s i]

/-- A forward jump in a state whose shared time already is the one after it. -/
theorem jumpNotice_eq (j : Jump) (hx : 0 < j.correction) {s : State} (hshared : s.shared = j.after)
    (htick : s.tickShared = s.shared) (hnext : s.tb.tbState = j.next) :
    jumpNotice j.noticeFirst j.before j.after j.correction s = j.run (j.gone s.cues.held) s := by
  have hnoticed : (j.notices true s).tb = s.tb ∧ (j.notices true s).cues = s.cues := by
    rw [← noticeChannels_eq j hx (fun i => j.noticeFirst.getLsbD i.toNat) true (by simp)]
    simp
  obtain ⟨htb, hcues⟩ := hnoticed
  unfold jumpNotice
  rw [if_pos hx, noticeChannels_eq j hx _ false (by simp), noticeChannels_eq j hx _ true (by simp)]
  refine congrArg (j.notices false) ?_
  have hticku : (j.notices true s).tickShared = (j.notices true s).shared := by
    unfold State.tickShared State.slewMarked State.shared at htick ⊢
    rw [htb]
    exact htick
  have hsharedu : (j.notices true s).shared = j.after := by rw [State.shared, htb, ← hshared, State.shared]
  have hreached : (fun h : HeldEntry => decide (ahead h.fire j.before ≤ j.correction.toNat))
      = fun h => decide ((ahead h.fire j.before : Int) ≤ j.correction) := funext fun h => by
    rw [decide_eq_decide]
    omega
  have hlate : ∀ h : HeldEntry, (h.fire != j.after) = decide (h.fire ≠ j.after) := fun h => by simp [bne, beq_eq_decide]
  unfold fireJumped
  rw [fireEntries_eq (fun h => h.fire != j.after) _ hticku, hreached, hcues, hsharedu, htb, hnext]
  simp only [hlate]
  rfl

theorem jumpNotice_backward {x : Int} (hx : x < 0) (mask : BitVec 8) (before after : Time) (s : State) :
    jumpNotice mask before after x s = s := if_neg (by omega)

/-- The jump of an evaluation (R18, R45). -/
def evaluationJump (order : ExpiryOrder) (c : ConfigRecord) (e : Evaluation) (s : State) : Jump where
  noticeFirst := order.noticeFirst
  before := s.shared
  after := s.shared + BitVec.ofInt 48 e.correction
  correction := e.correction
  next := (Timebase.transition c e s.tb).tbState

/-- What a jump's evaluation announces, in its order (R22, log 4). -/
def announced (order : ExpiryOrder) (changes : List ReportBody) (jump : State → State) (s : State) : State :=
  if order.changeFirst then jump (queueReports changes s) else queueReports changes (jump s)

theorem evaluated_of_jump {s : State} {c : ConfigRecord} {e : Evaluation} (h : jumpsFrom c s.tb.tbState e.correction) :
    (s.onTb (Timebase.evaluated c e)).shared = s.shared + BitVec.ofInt 48 e.correction
      ∧ (s.onTb (Timebase.evaluated c e)).tb.correction = 0
      ∧ (s.onTb (Timebase.evaluated c e)).tb.tbState = (Timebase.transition c e s.tb).tbState := by
  obtain ⟨hstate, -, -, -, -, -, hlocal, -, -, -, hoffset, hcorrection⟩ := evaluated_fields c e s.tb
  obtain ⟨hto, hzero⟩ := apply_of_jump h
  refine ⟨?_, hcorrection.trans hzero, hstate⟩
  show (Timebase.evaluated c e s.tb).localTime + (Timebase.evaluated c e s.tb).offset = s.shared + BitVec.ofInt 48 e.correction
  rw [hlocal, hoffset, hto, State.shared]
  exact (BitVec.add_assoc ..).symm

/-- An evaluation that jumps forward: what the slew step stepped over is settled, and the jump is announced (R18, R45). -/
theorem evaluate_of_jump {s : State} {c : ConfigRecord} (hconfig : s.control.config = some c)
    (h : jumpsFrom c s.tb.tbState s.evaluation.correction) (hx : 0 < s.evaluation.correction) (order : ExpiryOrder) :
    evaluate order s = announced order
      (changeReports s.tb.tbState (Timebase.transition c s.evaluation s.tb).tbState s.evaluation)
      ((evaluationJump order c s.evaluation s).run ((evaluationJump order c s.evaluation s).gone (settleStepped s).cues.held))
      ((settleStepped s).onTb (Timebase.evaluated c s.evaluation)) := by
  have htb : (settleStepped s).tb = s.tb := by simp
  have hshared0 : (settleStepped s).shared = s.shared := by rw [State.shared, htb, State.shared]
  obtain ⟨hshared, hzero, hnext⟩ := evaluated_of_jump (s := settleStepped s) (c := c) (e := s.evaluation) (by rw [htb]; exact h)
  rw [hshared0] at hshared
  rw [htb] at hnext
  have hjump : ∀ w : State, w.tb = ((settleStepped s).onTb (Timebase.evaluated c s.evaluation)).tb → w.cues = (settleStepped s).cues →
      jumpNotice order.noticeFirst s.shared ((settleStepped s).onTb (Timebase.evaluated c s.evaluation)).shared
        s.evaluation.correction w = (evaluationJump order c s.evaluation s).run
        ((evaluationJump order c s.evaluation s).gone (settleStepped s).cues.held) w := fun w hw hcues => by
    have hwzero : w.tb.correction = 0 := by rw [hw, hzero]
    have htick : w.tickShared = w.shared := by simp [State.tickShared, hwzero]
    have hwshared : w.shared = s.shared + BitVec.ofInt 48 s.evaluation.correction := by rw [← hshared, State.shared, hw, State.shared]
    rw [hshared, ← hcues]
    exact jumpNotice_eq (evaluationJump order c s.evaluation s) hx hwshared htick (by rw [hw, hnext]; rfl)
  have hjumps : c.jumps s.tb.tbState s.evaluation.correction = true := (jumps_iff ..).mpr h
  simp only [evaluate, hconfig, hjumps, announce, if_true, announced]
  rw [hnext]
  split
  · exact hjump _ (by simp) (by simp [State.onTb])
  · have hcues : ((settleStepped s).onTb (Timebase.evaluated c s.evaluation)).cues = (settleStepped s).cues := by simp [State.onTb]
    rw [hjump _ (Eq.refl _) hcues]

/-- An evaluation that jumps backward leaves the cue table and the channels alone (R46, R65). -/
theorem evaluate_backward {s : State} {c : ConfigRecord} (hconfig : s.control.config = some c)
    (hx : s.evaluation.correction < 0) (hstepped : s.tb.stepped = none) (order : ExpiryOrder) :
    (evaluate order s).cues = s.cues ∧ (evaluate order s).chans = s.chans := by
  simp only [evaluate, hconfig, announce, settleStepped_none s hstepped, ite_self, jumpNotice_backward hx]
  simp [State.onTb]

end Sys2Proof.Machine

/-! What leaves the cue table at a forward jump (R31, R45). -/

namespace Sys2Proof.Machine

/-! ## Entries that leave in two batches -/

theorem filter_filter_perm {α : Type} (l : List α) (p q : α → Bool) :
    (l.filter p ++ (l.filter fun x => !p x).filter q).Perm (l.filter fun x => p x || q x) := by
  have hfirst : (l.filter fun x => p x || q x).filter p = l.filter p := by
    rw [List.filter_filter]
    exact List.filter_congr fun x _ => by cases p x <;> simp
  have hrest : ((l.filter fun x => p x || q x).filter fun x => !p x) = (l.filter fun x => !p x).filter q := by
    rw [List.filter_filter, List.filter_filter]
    exact List.filter_congr fun x _ => by cases p x <;> simp
  rw [← hfirst, ← hrest]
  exact List.filter_append_perm p _

/-- What stands in the table when the entries of a part of it have left, in whatever order. -/
theorem leaveAll_of_perm {t : CueTable} (hkeys : (t.held.map HeldEntry.key).Nodup) {p : HeldEntry → Bool} {es : List HeldEntry}
    (hperm : es.Perm (t.held.filter p)) :
    (es.foldl (fun c e => c.leave e.key .fired) t).held = t.held.filter (fun h => !p h)
      ∧ (es.foldl (fun c e => c.leave e.key .fired) t).installCount = t.installCount
      ∧ ((t.held.filter p).length ≤ 32 → ∀ h ∈ t.held.filter p,
          (es.foldl (fun c e => c.leave e.key .fired) t).leftBy h.key = some .fired) := by
  obtain ⟨hheld, hcount⟩ := leaveAll_held es t
  refine ⟨?_, hcount, fun hlength h hh => ?_⟩
  · rw [hheld, ← filter_keys_of_nodup _ hkeys]
    refine List.filter_congr fun h _ => ?_
    rw [decide_eq_decide, (hperm.map HeldEntry.key).mem_iff]
  · have hnodup : ((t.held.filter p).map HeldEntry.key).Nodup := hkeys.sublist (List.filter_sublist.map _)
    exact leftBy_leaveAll t ((hperm.map HeldEntry.key).nodup_iff.mpr hnodup) (hperm.length_eq ▸ hlength) (hperm.mem_iff.mpr hh)

/-! ## The cue table through a jump -/

theorem noticed_keeps (before after : Time) (x : Int) (s : State) (i : ChannelNo) : (s.noticed before after x i).cues = s.cues
    ∧ (s.noticed before after x i).tb = s.tb ∧ (s.noticed before after x i).post = s.post := by
  cases hc : s.chan i with
  | off | input => rw [noticed_other (by simp [hc])]; simp
  | output o => rw [noticed_output hc]; simp

theorem notices_cues (j : Jump) (first : Bool) (s : State) : (j.notices first s).cues = s.cues :=
  foldl_inv s (fun u => u.cues = s.cues) _ _ (fun u i _ hu => (noticed_keeps _ _ _ u i).1.trans hu) rfl

theorem firesEntry_cues (s : State) (time : Time) (late : Bool) (next : TbState) (h : HeldEntry) :
    (s.firesEntry time late next h).cues = s.cues.leave h.key .fired := by
  unfold State.firesEntry State.fires
  cases s.chan h.channel <;> simp

theorem firings_cues (j : Jump) (gone : List HeldEntry) (s : State) :
    (j.firings gone s).cues = gone.foldl (fun c e => c.leave e.key .fired) s.cues := by
  unfold Jump.firings
  induction gone generalizing s with
  | nil => rfl
  | cons h gone ih => rw [List.foldl_cons, List.foldl_cons, ih, firesEntry_cues]

theorem run_cues (j : Jump) (gone : List HeldEntry) (s : State) :
    (j.run gone s).cues = gone.foldl (fun c e => c.leave e.key .fired) s.cues := by
  rw [Jump.run, notices_cues, firings_cues, notices_cues]

theorem announced_cues (order : ExpiryOrder) (changes : List ReportBody) (j : Jump) (gone : List HeldEntry) (s : State) :
    (announced order changes (j.run gone) s).cues = gone.foldl (fun c e => c.leave e.key .fired) s.cues := by
  unfold announced
  split
  · rw [run_cues]
    simp
  · simp [run_cues]

/-- The entries that leave before a jump because the slew step of its tick stepped over one of them (log 18). -/
def State.settles (s : State) (h : HeldEntry) : Bool :=
  (s.cues.held.any fun e => s.tb.stepped == some e.fire) && s.reaches h.fire

theorem slewDue_congr {s u : State} (htb : u.tb = s.tb) (hcontrol : u.control = s.control) : u.slewDue = s.slewDue := by
  simp only [State.slewDue, State.slewMarked, State.periodExpired, State.opened, State.beat, State.now, htb, hcontrol] <;> rfl

theorem fireDue_cues {s : State} (hopen : s.control.station ≠ .prep) (hslew : s.slewDue = false)
    (hdue : (s.cues.held.any fun e => s.reaches e.fire) = true) : (fireDue s).cues
      = (s.cues.held.filter fun e => s.reaches e.fire).foldl (fun c e => c.leave e.key .fired) s.cues := by
  have hhead : s.headDue = true := by
    have hopened := (opened_iff s).mpr hopen
    simp [State.headDue, hopened, hslew, hdue]
  rw [fireDue, if_pos hhead]
  exact fireEntries_cues (fun _ => false) _ s

theorem settleStepped_cues {s : State} (hopen : s.control.station ≠ .prep) (hslew : s.tb.stepped = none ∨ s.slewDue = false) :
    (settleStepped s).cues = (s.cues.held.filter s.settles).foldl (fun c e => c.leave e.key .fired) s.cues := by
  have hedged : (channelNumbers.foldl takeSteppedEdge s).tb = s.tb ∧ (channelNumbers.foldl takeSteppedEdge s).cues = s.cues
      ∧ (channelNumbers.foldl takeSteppedEdge s).control = s.control := by
    refine ⟨?_, ?_, ?_⟩ <;> exact foldl_keeps s _ _ _ (by intro s x; simp)
  obtain ⟨htb, hcues, hcontrol⟩ := hedged
  unfold settleStepped
  generalize channelNumbers.foldl takeSteppedEdge s = edged at htb hcues hcontrol
  have hreaches : edged.reaches = s.reaches := funext fun f => by
    simp only [State.reaches, State.steppedOver, State.shared, htb]
  simp only [State.steppedOver, htb, hcues]
  by_cases hany : (s.cues.held.any fun e => s.tb.stepped == some e.fire) = true
  · obtain ⟨e, he, hstepped⟩ := List.any_eq_true.mp hany
    have hslew : s.slewDue = false := hslew.resolve_left fun hnone => by simp [hnone] at hstepped
    have hsettles : s.settles = fun h => s.reaches h.fire := funext fun h => by rw [State.settles, hany, Bool.true_and]
    have hdue : (edged.cues.held.any fun e => edged.reaches e.fire) = true := by
      rw [hcues, hreaches]
      exact List.any_eq_true.mpr ⟨e, he, by simp [State.reaches, State.steppedOver, hstepped]⟩
    rw [if_pos hany, fireDue_cues (by rwa [hcontrol]) (by rw [slewDue_congr htb hcontrol, hslew]) hdue, hcues, hreaches, hsettles]
  · have hsettles : s.cues.held.filter s.settles = [] := by
      rw [Bool.not_eq_true] at hany
      simp [State.settles, hany]
    rw [if_neg hany, hsettles, hcues]
    rfl

/-- An entry leaves at a forward jump when it is at most C ahead, or was stepped over on its tick (R45, log 18). -/
def State.leavesAtJump (s : State) (x : Int) (h : HeldEntry) : Bool :=
  !decide (x < (ahead h.fire s.shared : Int) ∧ s.tb.stepped ≠ some h.fire)

theorem leavesAtJump_eq {s : State} {x : Int} (hx : 0 < x) {h : HeldEntry} (hh : h ∈ s.cues.held) :
    s.leavesAtJump x h = (s.settles h || decide ((ahead h.fire s.shared : Int) ≤ x)) := by
  have hdue : h.fire = s.shared → (ahead h.fire s.shared : Int) ≤ x := fun heq => by
    rw [(ahead_eq_zero_iff _ _).mpr heq]
    omega
  have hany : s.tb.stepped = some h.fire → (s.cues.held.any fun e => s.tb.stepped == some e.fire) = true := fun hs =>
    List.any_eq_true.mpr ⟨h, hh, by simp [hs]⟩
  rw [Bool.eq_iff_iff, Bool.or_eq_true, decide_eq_true_eq, State.leavesAtJump, State.settles, Bool.and_eq_true, State.reaches,
    Bool.or_eq_true, beq_iff_eq, State.steppedOver, beq_iff_eq, Bool.not_eq_true', decide_eq_false_iff_not]
  constructor
  · intro hleaves
    by_cases hs : s.tb.stepped = some h.fire
    · exact .inl ⟨hany hs, .inr hs⟩
    · exact .inr (not_lt.mp fun hlt => hleaves ⟨hlt, hs⟩)
  · rintro (⟨-, heq | hs⟩ | hle) ⟨hlt, hne⟩
    · exact absurd (hdue heq) (not_le.mpr hlt)
    · exact hne hs
    · exact absurd hle (not_le.mpr hlt)

/-- The cue table after a forward jump (R45). -/
theorem jump_cues {s : State} {c : ConfigRecord} (hconfig : s.control.config = some c) (hopen : s.control.station ≠ .prep)
    (hslew : s.tb.stepped = none ∨ s.slewDue = false) (h : jumpsFrom c s.tb.tbState s.evaluation.correction)
    (hx : 0 < s.evaluation.correction) (order : ExpiryOrder) (hkeys : (s.cues.held.map HeldEntry.key).Nodup) :
    ∃ es : List HeldEntry, es.Perm (s.cues.held.filter (s.leavesAtJump s.evaluation.correction))
      ∧ (evaluate order s).cues = es.foldl (fun c e => c.leave e.key .fired) s.cues := by
  have hsettled := settleStepped_cues hopen hslew
  have hheld : (settleStepped s).cues.held = s.cues.held.filter fun h => !s.settles h := by
    rw [hsettled, (leaveAll_held _ _).1, filter_keys_of_nodup _ hkeys]
  refine ⟨s.cues.held.filter s.settles
    ++ (s.cues.held.filter fun h => !s.settles h).filter fun h => decide ((ahead h.fire s.shared : Int) ≤ s.evaluation.correction), ?_, ?_⟩
  · rw [List.filter_congr fun h hh => leavesAtJump_eq hx hh]
    exact filter_filter_perm ..
  · have hcues : ((settleStepped s).onTb (Timebase.evaluated c s.evaluation)).cues = (settleStepped s).cues := by simp [State.onTb]
    rw [evaluate_of_jump hconfig h hx, announced_cues, hcues, List.foldl_append, ← hsettled, ← hheld]
    rfl

/-! ## The cue table after the expiry (R45) -/

theorem sweep_cues (s : State) : (sweep s).cues = s.cues := by simp

theorem sweepAndEvaluate_cues (order : ExpiryOrder) (s : State) :
    (sweepAndEvaluate order s).cues = (evaluate order (if order.sweepFirst then sweep s else s)).cues := by
  unfold sweepAndEvaluate
  split
  · rfl
  · exact sweep_cues _

/-- The cue table after an expiry that jumps forward (R45). -/
theorem sweepAndEvaluate_held {s u : State} {c : ConfigRecord} {order : ExpiryOrder} (hnow : s.evaluatesNow c) (hu : SameFigures s u)
    (hkeys : (s.cues.held.map HeldEntry.key).Nodup) (hjumps : jumpsFrom c s.tb.tbState (s.evaluationBy order).correction)
    (hx : 0 < (s.evaluationBy order).correction) (hslew : s.tb.stepped = none ∨ s.slewDue = false) :
    ∃ es : List HeldEntry, es.Perm (s.cues.held.filter (s.leavesAtJump (s.evaluationBy order).correction))
      ∧ (sweepAndEvaluate order u).cues = es.foldl (fun c e => c.leave e.key .fired) s.cues := by
  rw [sweepAndEvaluate_cues]
  have hbegun : ∃ a : State, (if order.sweepFirst then sweep u else u) = a ∧ a.control = s.control ∧ a.tb = u.tb
      ∧ a.cues = s.cues ∧ a.evaluation = s.evaluationBy order := by
    refine ⟨_, rfl, ?_⟩
    unfold State.evaluationBy
    split
    · exact ⟨by simp [hu.control], by simp, by simp [hu.cues], hu.evaluation_sweep⟩
    · exact ⟨hu.control, rfl, hu.cues, hu.evaluation⟩
  obtain ⟨a, ha, hcontrol, htb, hcues, heval⟩ := hbegun
  have hstate : a.tb.tbState = s.tb.tbState := by rw [htb, hu.tb]
  have hstepped : a.tb.stepped = s.tb.stepped := by rw [htb, hu.tb]
  have hshared : a.shared = s.shared := by rw [State.shared, htb, hu.tb, State.shared]
  have hleaves : a.leavesAtJump = s.leavesAtJump := funext fun x => funext fun h => by
    rw [State.leavesAtJump, hshared, hstepped, State.leavesAtJump]
  have hwatch : a.tb.stepped = none ∨ a.slewDue = false := by
    rw [hstepped]
    refine hslew.imp_right fun h => ?_
    have hmarked : s.slewMarked = false := by
      have hover := (periodExpired_iff s).mpr (periodOver_of_evaluatesNow hnow)
      simpa [State.slewDue, hover] using h
    have hmarked' : a.slewMarked = s.slewMarked := by rw [State.slewMarked, htb, hu.tb, State.slewMarked]
    rw [State.slewDue, hmarked', hmarked, Bool.false_and]
  obtain ⟨hconfig, hopen, -⟩ := hnow
  obtain ⟨es, hperm, hes⟩ := jump_cues (s := a) (by rw [hcontrol, hconfig]) (by rwa [hcontrol]) hwatch
    (by rw [hstate, heval]; exact hjumps) (by rwa [heval]) order (by rwa [hcues])
  rw [hcues, hleaves, heval] at hperm
  exact ⟨es, hperm, by rw [ha, hes, hcues]⟩

end Sys2Proof.Machine

/-! A forward jump's reports, the cue table and the channels, against the jump told from the state the expiry begins in. -/

namespace Sys2Proof.Machine

/-! ## The same table -/

/-- Two states whose reports, cue table and channels come out alike. -/
structure SameTable (a b : State) : Prop where
  reports : SameReports a b
  cues : a.cues = b.cues
  chans : a.chans = b.chans

theorem SameTable.trans {a b d : State} (h : SameTable a b) (h' : SameTable b d) : SameTable a d :=
  ⟨h.reports.trans h'.reports, h.cues.trans h'.cues, h.chans.trans h'.chans⟩

theorem SameTable.chan {a b : State} (h : SameTable a b) (i : ChannelNo) : a.chan i = b.chan i := by
  rw [State.chan, State.chan, h.chans]

theorem SameTable.queueReports {a b : State} (h : SameTable a b) (bs : List ReportBody) :
    SameTable (queueReports bs a) (queueReports bs b) :=
  ⟨h.reports.queueReports bs, by simp [h.cues], by simp [h.chans]⟩

theorem SameTable.setChans {a b : State} (h : SameTable a b) (i : ChannelNo) (ch : Channel) :
    SameTable { a with chans := a.chans.set i.toNat ch } { b with chans := b.chans.set i.toNat ch } where
  reports := ⟨h.reports.post, h.reports.port, h.reports.control, h.reports.now⟩
  cues := h.cues
  chans := congrArg (fun v : Vector Channel 8 => v.set i.toNat ch) h.chans

theorem SameTable.leave {a b : State} (h : SameTable a b) (key : CueKey) (x y : Bool) :
    SameTable { a with cues := a.cues.leave key .fired, stepFixed := x } { b with cues := b.cues.leave key .fired, stepFixed := y } where
  reports := ⟨h.reports.post, h.reports.port, h.reports.control, h.reports.now⟩
  cues := congrArg (CueTable.leave key .fired) h.cues
  chans := h.chans

theorem SameTable.noticed {a b : State} (h : SameTable a b) (before after : Time) (x : Int) (i : ChannelNo) :
    SameTable (a.noticed before after x i) (b.noticed before after x i) := by
  have hchan := h.chan i
  cases hc : b.chan i with
  | off | input =>
    rw [hc] at hchan
    rw [noticed_other (s := a) (by simp [hchan]), noticed_other (s := b) (by simp [hc])]
    exact h
  | output o =>
    rw [noticed_output hc, noticed_output (hchan.trans hc)]
    exact (h.setChans ..).queueReports _

theorem SameTable.firesEntry {a b : State} (hab : SameTable a b) (time : Time) (late : Bool) (next : TbState) (h : HeldEntry) :
    SameTable (a.firesEntry time late next h) (b.firesEntry time late next h) := by
  unfold State.firesEntry
  rw [hab.chan]
  cases b.chan h.channel with
  | off | input => exact (hab.leave h.key a.stepFixed b.stepFixed).queueReports _
  | output o => exact ((hab.leave h.key _ _).setChans ..).queueReports _

theorem SameTable.notices {a b : State} (h : SameTable a b) (j : Jump) (first : Bool) :
    SameTable (j.notices first a) (j.notices first b) := by
  unfold Jump.notices
  induction channelNumbers.filter fun i => j.noticeFirst.getLsbD i.toNat = first generalizing a b with
  | nil => exact h
  | cons i l ih => exact ih (h.noticed ..)

theorem SameTable.firings {a b : State} (h : SameTable a b) (j : Jump) (gone : List HeldEntry) :
    SameTable (j.firings gone a) (j.firings gone b) := by
  unfold Jump.firings
  induction gone generalizing a b with
  | nil => exact h
  | cons e gone ih => exact ih (h.firesEntry ..)

theorem SameTable.announced {a b : State} (h : SameTable a b) (order : ExpiryOrder) (changes : List ReportBody) (j : Jump)
    (gone : List HeldEntry) : SameTable (announced order changes (j.run gone) a) (announced order changes (j.run gone) b) := by
  have hrun : ∀ {a b : State}, SameTable a b → SameTable (j.run gone a) (j.run gone b) := fun h =>
    ((h.notices j true).firings j gone).notices j false
  unfold Machine.announced
  split
  · exact hrun (h.queueReports changes)
  · exact (hrun h).queueReports changes

theorem tellable_sameTable : Tellable SameTable where
  setPeer := fun _ _ p x h => ⟨tellable_sameReports.setPeer _ _ p x h.reports, by simp [h.cues], by simp [h.chans]⟩
  tells := fun _ _ x p new h => ⟨tellable_sameReports.tells _ _ x p new h.reports,
    by unfold Peer.tells; split <;> simp [h.cues], by unfold Peer.tells; split <;> simp [h.chans]⟩

theorem SameFigures.sameTable {s u : State} (h : SameFigures s u) : SameTable u s :=
  ⟨⟨h.post, h.port, h.control, h.now⟩, h.cues, h.chans⟩

/-! ## The expiry that jumps forward -/

/-- The reports, the cue table and the channels of an expiry that jumps forward (O37). -/
def State.jumpTold (order : ExpiryOrder) (c : ConfigRecord) (e : Evaluation) (s : State) : State :=
  let told := announced order (changeReports s.tb.tbState (Timebase.transition c e s.tb).tbState e)
    ((evaluationJump order c e s).run ((evaluationJump order c e s).gone s.cues.held))
  if order.sweepFirst then told (s.sweepTells s.beat s) else s.sweepTells s.beat (told s)

/-- An evaluation that jumps forward with nothing stepped over. -/
theorem evaluate_sameTable {a b : State} {c : ConfigRecord} (hconfig : a.control.config = some c) (hstepped : a.tb.stepped = none)
    (h : jumpsFrom c a.tb.tbState a.evaluation.correction) (hx : 0 < a.evaluation.correction) (hab : SameTable a b)
    (order : ExpiryOrder) : SameTable (evaluate order a) (announced order
      (changeReports a.tb.tbState (Timebase.transition c a.evaluation a.tb).tbState a.evaluation)
      ((evaluationJump order c a.evaluation a).run ((evaluationJump order c a.evaluation a).gone a.cues.held)) b) := by
  rw [evaluate_of_jump hconfig h hx, settleStepped_none a hstepped]
  refine SameTable.announced ?_ ..
  obtain ⟨-, -, -, -, -, -, hlocal, -⟩ := evaluated_fields c a.evaluation a.tb
  exact SameTable.trans (b := a) ⟨⟨rfl, rfl, rfl, hlocal⟩, rfl, rfl⟩ hab

/-- The evaluation's jump depends on the shared time and the timebase state alone. -/
theorem SameFigures.evaluationJump {s u a : State} (h : SameFigures s u) (htb : a.tb = u.tb) (order : ExpiryOrder) (c : ConfigRecord)
    (e : Evaluation) : evaluationJump order c e a = evaluationJump order c e s := by
  have hshared : a.shared = s.shared := by rw [State.shared, htb, h.tb, State.shared]
  have hnext : (Timebase.transition c e a.tb).tbState = (Timebase.transition c e s.tb).tbState := by rw [htb, h.transition]
  simp only [Machine.evaluationJump, hshared, hnext]

/-- An expiry that jumps forward with nothing stepped over (R45, R64, R66). -/
theorem sweepAndEvaluate_sameTable {s u : State} {c : ConfigRecord} (hconfig : s.control.config = some c) (hu : SameFigures s u)
    (order : ExpiryOrder) (hstepped : s.tb.stepped = none) (hjumps : jumpsFrom c s.tb.tbState (s.evaluationBy order).correction)
    (hx : 0 < (s.evaluationBy order).correction) :
    SameTable (sweepAndEvaluate order u) (s.jumpTold order c (s.evaluationBy order)) := by
  have hevaluate : ∀ a b : State, a.control = u.control → a.tb = u.tb → a.cues = u.cues → a.evaluation = s.evaluationBy order →
      SameTable a b → SameTable (evaluate order a) (announced order
        (changeReports s.tb.tbState (Timebase.transition c (s.evaluationBy order) s.tb).tbState (s.evaluationBy order))
        ((evaluationJump order c (s.evaluationBy order) s).run
          ((evaluationJump order c (s.evaluationBy order) s).gone s.cues.held)) b) := fun a b hcontrol htb hcues heval hab => by
    have hstate : a.tb.tbState = s.tb.tbState := by rw [htb, hu.tb]
    have h := evaluate_sameTable (a := a) (c := c) (by rw [hcontrol, hu.control, hconfig]) (by rw [htb, hu.tb]; exact hstepped)
      (by rw [hstate, heval]; exact hjumps) (by rw [heval]; exact hx) hab order
    rw [heval, hstate, hu.evaluationJump htb, htb, hu.transition, hcues, hu.cues] at h
    exact h
  unfold sweepAndEvaluate State.jumpTold
  split
  · next hfirst =>
    exact hevaluate _ _ (by simp) (by simp) (by simp) (by rw [hu.evaluation_sweep, State.evaluationBy, if_pos hfirst])
      (sweep_alike tellable_sameTable hu.sameTable hu.roster hu.beat hu.now)
  · next hfirst =>
    have h := hevaluate u s rfl rfl rfl (by rw [hu.evaluation, State.evaluationBy, if_neg hfirst]) hu.sameTable
    refine sweep_alike tellable_sameTable h (by simpa using hu.roster) ?_ ?_
    · rw [← hu.beat]
      simp [State.beat]
    · rw [← State.now, ← hu.now, State.now, State.now, evaluate_localTime]

/-! ## The reports of a jump, one by one -/

/-- From a to b reports were queued behind those that stood, at most n of them. -/
structure Told (n : Nat) (a b : State) : Prop where
  queue : a.port.queue <+: b.port.queue
  count : b.reportSum ≤ a.reportSum + n

theorem Told.refl (a : State) : Told 0 a a := ⟨List.prefix_rfl, le_rfl⟩

theorem Told.trans {m n : Nat} {a b d : State} (h : Told m a b) (h' : Told n b d) : Told (m + n) a d :=
  ⟨h.queue.trans h'.queue, by have := h.count; have := h'.count; omega⟩

theorem Told.mono {m n : Nat} {a b : State} (h : Told m a b) (hle : m ≤ n) : Told n a b :=
  ⟨h.queue, by have := h.count; omega⟩

theorem Told.mem {n : Nat} {a b : State} (h : Told n a b) {r : ReportBody} (hr : r ∈ a.port.queue.map Report.body) :
    r ∈ b.port.queue.map Report.body := (h.queue.map Report.body).subset hr

theorem told_queueReport (r : ReportBody) (s : State) : Told 1 s (queueReport r s) := by
  refine ⟨queueReport_prefix r s, ?_⟩
  by_cases hroom : s.reportSum < 48
  · rw [queueReport_length r hroom]
  · have hfull := queueReport_full r (not_lt.mp hroom)
    simp only [State.reportSum, hfull, queueReport_frame]
    omega

theorem told_queueReports (rs : List ReportBody) (s : State) : Told rs.length s (queueReports rs s) := by
  induction rs generalizing s with
  | nil => exact .refl s
  | cons r rs ih => exact ((told_queueReport r s).trans (ih _)).mono (by simp; omega)

theorem Told.of_port {n : Nat} {a a' b : State} (h : Told n a' b) (hport : a'.port = a.port) (hpost : a'.post = a.post) : Told n a b := by
  obtain ⟨hqueue, hcount⟩ := h
  rw [State.reportSum, State.reportSum, hport, hpost, ← State.reportSum, ← State.reportSum] at hcount
  exact ⟨hport ▸ hqueue, hcount⟩

/-- Several that each queue at most n. -/
theorem told_foldl {α : Type} {f : State → α → State} {n : Nat} (hf : ∀ s x, Told n s (f s x)) (l : List α) (s : State) :
    Told (n * l.length) s (l.foldl f s) := by
  induction l generalizing s with
  | nil => exact .refl s
  | cons x l ih => exact ((hf s x).trans (ih _)).mono (by rw [List.length_cons, Nat.mul_succ]; omega)

/-- A report that one of several queues, told at the state that one begins in. -/
theorem mem_foldl {α : Type} {f : State → α → State} {n : Nat} (hf : ∀ s x, Told n s (f s x)) {l : List α} {s : State}
    (hroom : s.reportSum + n * l.length ≤ 48) {r : ReportBody} {x : α} {before rest : List α} (hl : l = before ++ x :: rest)
    (hr : (before.foldl f s).reportSum + n ≤ 48 → r ∈ (f (before.foldl f s) x).port.queue.map Report.body) :
    r ∈ (l.foldl f s).port.queue.map Report.body := by
  subst hl
  rw [List.foldl_append, List.foldl_cons]
  refine (told_foldl hf rest _).mem (hr ?_)
  have hcount := (told_foldl hf before s).count
  rw [List.length_append, List.length_cons, Nat.mul_add, Nat.mul_succ] at hroom
  omega

theorem told_noticed (before after : Time) (x : Int) (s : State) (i : ChannelNo) : Told 1 s (s.noticed before after x i) := by
  cases hc : s.chan i with
  | off | input =>
    rw [noticed_other (by simp [hc])]
    exact (Told.refl s).mono (by omega)
  | output o =>
    rw [noticed_output hc]
    have h := (told_queueReports (o.jumpReports i before after x)
      { s with chans := s.chans.set i.toNat (.output (o.jumped before x)) }).mono (jumpReports_length ..)
    exact h.of_port rfl rfl

theorem firingReports_length (o : OutputState) (action : HeldAction) (report : Bool) (fired : FiredReport) (origin tickEnd : Time) :
    (o.firingReports action report fired origin tickEnd).length ≤ 3 := by
  unfold OutputState.firingReports
  rw [List.length_append, List.length_append]
  split_ifs <;> cases action <;> simp <;> split_ifs <;> simp

/-- What one entry's firing reports (R43, R59). -/
def State.entryReports (s : State) (time : Time) (late : Bool) (next : TbState) (h : HeldEntry) : List ReportBody :=
  let fired : FiredReport := {
    key := h.key
    channel := h.channel
    path := h.path
    installNo := some h.installNo
    fire := some h.fire
    time := time
    late := late
    tbState := next }
  match s.chan h.channel with
  | .output o => o.firingReports h.action h.report fired h.fire time
  | .off | .input _ => if h.report then [.cueFired fired] else []

theorem entryReports_length (s : State) (time : Time) (late : Bool) (next : TbState) (h : HeldEntry) :
    (s.entryReports time late next h).length ≤ 3 := by
  unfold State.entryReports
  cases s.chan h.channel with
  | off | input =>
    simp only []
    split <;> simp
  | output o => exact firingReports_length ..

theorem cueFired_mem_entryReports (s : State) (time : Time) (late : Bool) (next : TbState) {h : HeldEntry} (hreport : h.report = true) :
    .cueFired {
      key := h.key
      channel := h.channel
      path := h.path
      installNo := some h.installNo
      fire := some h.fire
      time := time
      late := late
      tbState := next } ∈ s.entryReports time late next h := by
  unfold State.entryReports
  cases s.chan h.channel <;> simp [hreport, OutputState.firingReports]

/-- An entry's firing queues its reports where they find the same room. -/
theorem firesEntry_told (s : State) (time : Time) (late : Bool) (next : TbState) (h : HeldEntry) :
    ∃ u : State, u.port = s.port ∧ u.post = s.post
      ∧ s.firesEntry time late next h = queueReports (s.entryReports time late next h) u := by
  unfold State.firesEntry State.entryReports
  cases s.chan h.channel with
  | off | input => exact ⟨{ s with cues := s.cues.leave h.key .fired }, rfl, rfl, rfl⟩
  | output o =>
    exact ⟨{ s with
      cues := s.cues.leave h.key .fired
      chans := s.chans.set h.channel.toNat (.output (o.acted h.action h.key h.report h.fire time))
      stepFixed := s.stepFixed || s.turnsOnTheStep h.action h.fire }, rfl, rfl, rfl⟩

theorem told_firesEntry (time : Time) (late : Bool) (next : TbState) (s : State) (h : HeldEntry) :
    Told 3 s (s.firesEntry time late next h) := by
  obtain ⟨u, hport, hpost, heq⟩ := firesEntry_told s time late next h
  rw [heq]
  exact ((told_queueReports _ u).of_port hport hpost).mono (entryReports_length ..)

/-- With room for it, the firing of a flagged entry queues its CUE_FIRED (R43). -/
theorem cueFired_mem_firesEntry (s : State) (time : Time) (late : Bool) (next : TbState) {h : HeldEntry} (hreport : h.report = true)
    (hroom : s.reportSum + 3 ≤ 48) : .cueFired {
      key := h.key
      channel := h.channel
      path := h.path
      installNo := some h.installNo
      fire := some h.fire
      time := time
      late := late
      tbState := next } ∈ (s.firesEntry time late next h).port.queue.map Report.body := by
  obtain ⟨u, hport, hpost, heq⟩ := firesEntry_told s time late next h
  have hlength := entryReports_length s time late next h
  rw [State.reportSum, ← hport, ← hpost, ← State.reportSum] at hroom
  rw [heq, queueReports_bodies _ (by omega)]
  exact List.mem_append_right _ (cueFired_mem_entryReports s time late next hreport)

end Sys2Proof.Machine

/-! What a forward jump does at a channel and what it reports, and the two obligations about it (R45, R63, R64). -/

namespace Sys2Proof.Machine

/-! ## The channels through a jump -/

/-- A change of an OUTPUT channel; any other channel stays. -/
def Channel.mapOutput (f : OutputState → OutputState) : Channel → Channel
  | .output o => .output (f o)
  | .off => .off
  | .input i => .input i

theorem chan_of_chans {s u : State} (h : u.chans = s.chans) (i : ChannelNo) : u.chan i = s.chan i := by
  rw [State.chan, h, State.chan]

theorem noticed_chan (before after : Time) (x : Int) (s : State) (i k : ChannelNo) : (s.noticed before after x i).chan k
    = if k = i then (s.chan k).mapOutput (OutputState.jumped before x) else s.chan k := by
  cases hc : s.chan i with
  | off | input =>
    rw [noticed_other (s := s) (by simp [hc])]
    split
    · next hk => rw [hk, hc]; rfl
    · rfl
  | output o =>
    rw [noticed_output hc, chan_of_chans (s := setChan i (.output (o.jumped before x)) s) (by simp; rfl), setChan_chan]
    split
    · next hk => rw [hk, hc]; rfl
    · rfl

theorem noticedAll_chan (before after : Time) (x : Int) (l : List ChannelNo) (hl : l.Nodup) (s : State) (k : ChannelNo) :
    (l.foldl (State.noticed before after x) s).chan k
      = if k ∈ l then (s.chan k).mapOutput (OutputState.jumped before x) else s.chan k := by
  induction l generalizing s with
  | nil => simp
  | cons i l ih =>
    obtain ⟨hi, hl⟩ := List.nodup_cons.mp hl
    rw [List.foldl_cons, ih hl, noticed_chan]
    by_cases hk : k = i
    · simp [hk, hi]
    · simp [hk]

theorem firesEntry_chan (s : State) (time : Time) (late : Bool) (next : TbState) (h : HeldEntry) (k : ChannelNo) :
    (s.firesEntry time late next h).chan k = if h.channel = k
      then (s.chan k).mapOutput (fun o => o.acted h.action h.key h.report h.fire time) else s.chan k := by
  unfold State.firesEntry
  cases hc : s.chan h.channel with
  | off | input =>
    rw [chan_of_chans (s := s) (by simp)]
    split
    · next hk => rw [← hk, hc]; rfl
    · rfl
  | output o =>
    have hchans : (s.fires o h.action h.report {
        key := h.key
        channel := h.channel
        path := h.path
        installNo := some h.installNo
        fire := some h.fire
        time := time
        late := late
        tbState := next } h.fire time).chans
      = (setChan h.channel (.output (o.acted h.action h.key h.report h.fire time)) s).chans := by simp [State.fires]; rfl
    rw [chan_of_chans hchans, setChan_chan]
    by_cases hk : h.channel = k
    · rw [if_pos hk, if_pos hk.symm, ← hk, hc]
      rfl
    · rw [if_neg hk, if_neg (Ne.symm hk)]

/-- An OUTPUT channel after the firings of a jump, in table order (R64). -/
theorem firings_chan (j : Jump) (gone : List HeldEntry) {s : State} {k : ChannelNo} {o : OutputState} (ho : s.chan k = .output o) :
    (j.firings gone s).chan k = .output ((gone.filter fun h => h.channel = k).foldl
      (fun o h => o.acted h.action h.key h.report h.fire j.after) o) := by
  unfold Jump.firings
  induction gone generalizing s o with
  | nil => exact ho
  | cons h gone ih =>
    have hnext := firesEntry_chan s j.after (decide (h.fire ≠ j.after)) j.next h k
    by_cases hk : h.channel = k
    · rw [if_pos hk, ho] at hnext
      rw [List.foldl_cons, ih hnext, List.filter_cons, if_pos (by simpa using hk), List.foldl_cons]
    · rw [if_neg hk, ho] at hnext
      rw [List.foldl_cons, ih hnext, List.filter_cons, if_neg (by simpa using hk)]

/-- The channels that take their notice before the firings, or after them. -/
def Jump.noticed (j : Jump) (first : Bool) : List ChannelNo := channelNumbers.filter fun i => j.noticeFirst.getLsbD i.toNat = first

theorem mem_noticed (j : Jump) (first : Bool) (i : ChannelNo) : i ∈ j.noticed first ↔ j.noticeFirst.getLsbD i.toNat = first := by
  simp [Jump.noticed, mem_channelNumbers]

theorem nodup_channelNumbers : channelNumbers.Nodup := by decide

theorem nodup_noticed (j : Jump) (first : Bool) : (j.noticed first).Nodup := nodup_channelNumbers.filter _

theorem noticed_length (j : Jump) : (j.noticed true).length + (j.noticed false).length = 8 := by
  have hperm := (List.filter_append_perm (fun i : ChannelNo => j.noticeFirst.getLsbD i.toNat = true) channelNumbers).length_eq
  have hlast : (channelNumbers.filter fun i : ChannelNo => !decide (j.noticeFirst.getLsbD i.toNat = true)) = j.noticed false :=
    List.filter_congr fun i _ => by simp
  rw [hlast, List.length_append] at hperm
  exact hperm

theorem notices_chan (j : Jump) (first : Bool) {s : State} {k : ChannelNo} {o : OutputState} (ho : s.chan k = .output o) :
    (j.notices first s).chan k
      = .output (if j.noticeFirst.getLsbD k.toNat = first then o.jumped j.before j.correction else o) := by
  refine (noticedAll_chan _ _ _ _ (nodup_noticed j first) s k).trans ?_
  simp only [mem_noticed, ho]
  split <;> rfl

/-- An OUTPUT channel after a forward jump (R63, R64). -/
theorem run_chan (j : Jump) (gone : List HeldEntry) {s : State} {k : ChannelNo} {o : OutputState} (ho : s.chan k = .output o) :
    (j.run gone s).chan k = .output (if j.noticeFirst.getLsbD k.toNat
      then (gone.filter fun h => h.channel = k).foldl (fun o h => o.acted h.action h.key h.report h.fire j.after)
        (o.jumped j.before j.correction)
      else ((gone.filter fun h => h.channel = k).foldl (fun o h => o.acted h.action h.key h.report h.fire j.after) o).jumped
        j.before j.correction) := by
  rw [Jump.run, notices_chan j false (firings_chan j gone (notices_chan j true ho))]
  cases j.noticeFirst.getLsbD k.toNat <;> simp

/-- An OUTPUT channel when a jump has been announced. -/
theorem announced_chan (order : ExpiryOrder) (changes : List ReportBody) (j : Jump) (gone : List HeldEntry) {s : State} {k : ChannelNo}
    {o : OutputState} (ho : s.chan k = .output o) : (announced order changes (j.run gone) s).chan k = (j.run gone s).chan k := by
  unfold announced
  split
  · have hsame : (queueReports changes s).chan k = s.chan k := chan_of_chans (by simp) k
    rw [run_chan j gone (hsame.trans ho), run_chan j gone ho]
  · exact chan_of_chans (by simp) k

/-! ## A sweep that changes no entry -/

theorem sweepTells_quiet {s : State} {beat : Nat}
    (h : ∀ p x, s.peer? p = some x → (x.swept beat s.tb.localTime).state = x.state) (u : State) : s.sweepTells beat u = u := by
  refine foldl_inv u (fun w => w = u) (s.tellsOf beat) stations (fun w p _ hw => ?_) rfl
  rw [hw]
  unfold State.tellsOf
  cases hx : s.peer? p with
  | none => rfl
  | some x =>
    simp only [h p x hx, Peer.tells]
    rw [if_neg (fun hgone => hgone.1 hgone.2), if_true]
    rfl

theorem sweepTells_chans (s : State) (beat : Nat) (u : State) : (s.sweepTells beat u).chans = u.chans := by
  refine foldl_inv u (fun w => w.chans = u.chans) (s.tellsOf beat) stations (fun w p _ hw => Eq.trans ?_ hw) rfl
  unfold State.tellsOf
  cases s.peer? p with
  | none => rfl
  | some x =>
    simp only [Peer.tells]
    split <;> simp

theorem jumpTold_chan (order : ExpiryOrder) (c : ConfigRecord) (e : Evaluation) {s : State} {k : ChannelNo} {o : OutputState}
    (ho : s.chan k = .output o) : (s.jumpTold order c e).chan k
      = ((evaluationJump order c e s).run ((evaluationJump order c e s).gone s.cues.held) s).chan k := by
  unfold State.jumpTold
  simp only []
  split
  · have hsame : (s.sweepTells s.beat s).chan k = s.chan k := chan_of_chans (sweepTells_chans ..) k
    rw [announced_chan _ _ _ _ (hsame.trans ho), run_chan _ _ (hsame.trans ho), run_chan _ _ ho]
  · rw [chan_of_chans (sweepTells_chans ..) k, announced_chan _ _ _ _ ho]

theorem jumpTold_quiet {s : State} (h : ∀ p x, s.peer? p = some x → (x.swept s.beat s.tb.localTime).state = x.state)
    (order : ExpiryOrder) (c : ConfigRecord) (e : Evaluation) : s.jumpTold order c e = announced order
      (changeReports s.tb.tbState (Timebase.transition c e s.tb).tbState e)
      ((evaluationJump order c e s).run ((evaluationJump order c e s).gone s.cues.held)) s := by
  unfold State.jumpTold
  simp only [sweepTells_quiet h, ite_self]

/-! ## Reports of a jump that find room -/

theorem told_notices (j : Jump) (first : Bool) (s : State) : Told (j.noticed first).length s (j.notices first s) :=
  (told_foldl (told_noticed j.before j.after j.correction) (j.noticed first) s).mono (by omega)

theorem told_firings (j : Jump) (gone : List HeldEntry) (s : State) : Told (3 * gone.length) s (j.firings gone s) :=
  told_foldl (fun s h => told_firesEntry j.after _ j.next s h) gone s

theorem changeReports_length (old new : TbState) (e : Evaluation) : (changeReports old new e).length ≤ 1 := by
  unfold changeReports
  split <;> simp

/-- A report of the jump stands in the queue whichever way the TIMEBASE_CHANGE comes (R22). -/
theorem mem_announced {order : ExpiryOrder} {changes : List ReportBody} (hchanges : changes.length ≤ 1) {j : Jump}
    {gone : List HeldEntry} {s : State} {n : Nat} (hroom : s.reportSum + 1 + n ≤ 48) {r : ReportBody}
    (hr : ∀ w : State, w.chans = s.chans → w.reportSum + n ≤ 48 → r ∈ (j.run gone w).port.queue.map Report.body) :
    r ∈ (announced order changes (j.run gone) s).port.queue.map Report.body := by
  unfold announced
  split
  · refine hr _ (by simp) ?_
    have hcount := (told_queueReports changes s).count
    omega
  · exact (told_queueReports changes _).mem (hr s rfl (by omega))

/-- The CUE_FIRED of a flagged entry that a jump fires (R45). -/
theorem cueFired_mem_run (j : Jump) {gone : List HeldEntry} {s : State} (hroom : s.reportSum + (8 + 3 * gone.length) ≤ 48)
    {h : HeldEntry} (hh : h ∈ gone) (hreport : h.report = true) : .cueFired {
      key := h.key
      channel := h.channel
      path := h.path
      installNo := some h.installNo
      fire := some h.fire
      time := j.after
      late := decide (h.fire ≠ j.after)
      tbState := j.next } ∈ (j.run gone s).port.queue.map Report.body := by
  have hcount := (told_notices j true s).count
  have hlength := noticed_length j
  have htold : ∀ (u : State) (g : HeldEntry), Told 3 u (u.firesEntry j.after (decide (g.fire ≠ j.after)) j.next g) :=
    fun u g => told_firesEntry ..
  obtain ⟨before, rest, hgone⟩ := List.append_of_mem hh
  have hfired := mem_foldl htold (s := j.notices true s) (by omega) hgone fun hfree =>
    cueFired_mem_firesEntry _ j.after (decide (h.fire ≠ j.after)) j.next hreport hfree
  exact (told_notices j false (j.firings gone (j.notices true s))).mem hfired

/-- The CUE_CUT of a flagged run that its notice ends with pulses still to come (R63, R66). -/
theorem cueCut_mem_notices (j : Jump) {first : Bool} {s : State} (hroom : s.reportSum + (j.noticed first).length ≤ 48)
    {i : ChannelNo} (hi : j.noticeFirst.getLsbD i.toNat = first) {o : OutputState} (ho : s.chan i = .output o) {r : ReportBody}
    (hr : r ∈ o.jumpReports i j.before j.after j.correction) : r ∈ (j.notices first s).port.queue.map Report.body := by
  obtain ⟨before, rest, hl⟩ := List.append_of_mem ((mem_noticed j first i).mpr hi)
  have hnodup := hl ▸ nodup_noticed j first
  obtain ⟨hbefore, -, hdisjoint⟩ := List.nodup_append.mp hnodup
  have hnot : i ∉ before := fun hmem => hdisjoint i hmem i List.mem_cons_self rfl
  refine mem_foldl (l := j.noticed first) (told_noticed j.before j.after j.correction) (by omega) hl fun hfree => ?_
  have hchan := noticedAll_chan j.before j.after j.correction before hbefore s i
  rw [if_neg hnot, ho] at hchan
  have hlength := jumpReports_length o i j.before j.after j.correction
  rw [noticed_output hchan, queueReports_bodies _ (by
    show (before.foldl (State.noticed j.before j.after j.correction) s).reportSum + _ ≤ 48
    omega)]
  exact List.mem_append_right _ hr

theorem cueCut_mem_run (j : Jump) {gone : List HeldEntry} {s : State} (hroom : s.reportSum + (8 + 3 * gone.length) ≤ 48)
    {i : ChannelNo} {o : OutputState} (ho : s.chan i = .output o)
    (hfirst : j.noticeFirst.getLsbD i.toNat = true ∨ (gone.filter fun h => h.channel = i) = []) {r : ReportBody}
    (hr : r ∈ o.jumpReports i j.before j.after j.correction) : r ∈ (j.run gone s).port.queue.map Report.body := by
  have hlength := noticed_length j
  have hnotices := told_notices j true s
  have hfirings := told_firings j gone (j.notices true s)
  cases hi : j.noticeFirst.getLsbD i.toNat with
  | true =>
    have hcut := cueCut_mem_notices j (by omega) hi ho hr
    exact (told_notices j false _).mem (hfirings.mem hcut)
  | false =>
    have hnone := hfirst.resolve_left (by simp [hi])
    have hchan := firings_chan j gone (notices_chan j true ho)
    rw [hnone, hi] at hchan
    have hcount := hnotices.count
    have hcount' := hfirings.count
    exact cueCut_mem_notices j (by omega) hi hchan hr

theorem mem_jumpReports {o : OutputState} {before : Time} {x : Int} {edge : Time} (hrun : o.run ≠ .idle)
    (hedge : o.nextTime = some edge) (hnear : (ahead edge before : Int) < x) (hleft : 0 < (o.jumped before x).left)
    (hreport : o.report = true) (i : ChannelNo) (after : Time) : .cueCut {
      key := o.key.getD { origin := 0, serial := 0 }
      channel := i
      completed := (o.jumped before x).completed
      count := (o.jumped before x).completed + (o.jumped before x).left
      cutting := none
      time := after } ∈ o.jumpReports i before after x := by
  rw [OutputState.jumpReports, if_pos (by simp [hrun, hedge, hnear, hleft, hreport])]
  exact List.mem_singleton_self _

end Sys2Proof.Machine

/-! The forward jump of a period expiry: the entries it fires, and the channels it meets (R45, R63, R64). -/

namespace Sys2Proof.Machine

theorem exec_periodExpiry {s : State} {c : ConfigRecord} (hnow : s.evaluatesNow c) (order : ExpiryOrder) :
    ∃ t, exec (.periodExpiry order) s = .next t ∧ t.cues = (sweepAndEvaluate order (s.figured order)).cues
      ∧ t.chans = (sweepAndEvaluate order (s.figured order)).chans ∧ t.port = (sweepAndEvaluate order (s.figured order)).port :=
  ⟨_, (exec_eq s (.periodExpiry order)).trans (congrArg _ (expirePeriod_eq hnow order)), rfl, rfl, rfl⟩

/-- Settles O31: the entries a forward jump reaches leave as FIRED, each flagged one with its CUE_FIRED. -/
theorem forwardJumpFiresWhatItReaches : Obligations.ForwardJumpFiresWhatItReaches := by
  intro s c order e ⟨_, hkeys⟩ hnow he hjumps hx hslew stays gone
  obtain rfl : e = s.evaluationBy order := he
  have hu := sameFigures_figured order s
  obtain ⟨t, hexec, hcues, -, hport⟩ := exec_periodExpiry hnow order
  obtain ⟨es, hperm, hes⟩ := sweepAndEvaluate_held hnow hu hkeys hjumps hx hslew
  obtain ⟨hheld, hcount, hleft⟩ := leaveAll_of_perm hkeys hperm
  rw [← hcues] at hes
  rw [← hes] at hheld hcount hleft
  have hstays : (fun h : HeldEntry => !s.leavesAtJump (s.evaluationBy order).correction h) = stays := funext fun h => Bool.not_not _
  refine ⟨t, hexec, hstays ▸ hheld, hcount, hleft, fun hstepped hquiet hroom h hh hreport => ?_⟩
  have hgone : (evaluationJump order c (s.evaluationBy order) s).gone s.cues.held = gone :=
    List.filter_congr fun g _ => by
      show decide ((ahead g.fire s.shared : Int) ≤ (s.evaluationBy order).correction) = !stays g
      simp [stays, hstepped, ← decide_not]
  rw [hport, (sweepAndEvaluate_sameTable hnow.1 hu order hstepped hjumps hx).reports.port, jumpTold_quiet hquiet, hgone]
  exact mem_announced (changeReports_length ..) (n := 8 + 3 * gone.length) (by rw [State.reportSum]; omega) fun w _ hfree =>
    cueFired_mem_run (evaluationJump order c (s.evaluationBy order) s) hfree hh hreport

/-- A backward jump leaves the cue table and the channels alone (R46, R65). -/
theorem sweepAndEvaluate_backward {s u : State} {c : ConfigRecord} (hconfig : s.control.config = some c) (hu : SameFigures s u)
    (order : ExpiryOrder) (hstepped : s.tb.stepped = none) (hx : (s.evaluationBy order).correction < 0) :
    (sweepAndEvaluate order u).cues = s.cues ∧ (sweepAndEvaluate order u).chans = s.chans := by
  have hnone : u.tb.stepped = none := by rw [hu.tb]; exact hstepped
  unfold sweepAndEvaluate
  split
  · next hfirst =>
    rw [State.evaluationBy, if_pos hfirst, ← hu.evaluation_sweep] at hx
    obtain ⟨hcues, hchans⟩ := evaluate_backward (s := sweep u) (c := c) (by simp [hu.control, hconfig]) hx (by simpa using hnone) order
    exact ⟨hcues.trans (by simp [hu.cues]), hchans.trans (by simp [hu.chans])⟩
  · next hfirst =>
    rw [State.evaluationBy, if_neg hfirst, ← hu.evaluation] at hx
    obtain ⟨hcues, hchans⟩ := evaluate_backward (c := c) (by rw [hu.control, hconfig]) hx hnone order
    exact ⟨by simp [hcues, hu.cues], by simp [hchans, hu.chans]⟩

/-- Settles O37: the notices and the firings of a forward jump, and the backward jump that has neither. -/
theorem jumpsAtTheChannels : Obligations.JumpsAtTheChannels := by
  intro s c order e hnow he hjumps hstepped after gone next sweeps change notices firings jump announced done
  obtain rfl : e = s.evaluationBy order := he
  have hconfig := hnow.1
  have hbeat : beatPeriod c.beatCode = s.beat := by rw [State.beat, hconfig]
  have hu := sameFigures_figured order s
  obtain ⟨t, hexec, hcues, hchans, hport⟩ := exec_periodExpiry hnow order
  have hdone : s.jumpTold order c (s.evaluationBy order) = done := by
    simp only [done, sweeps, hbeat]
    rfl
  refine ⟨t, hexec, fun hx => ?_, fun hx => ?_, fun hx => ?_⟩
  · have htable := sweepAndEvaluate_sameTable hconfig hu order hstepped hjumps hx
    rw [hdone] at htable
    exact ⟨hcues.trans htable.cues, hchans.trans htable.chans, hport.trans htable.reports.port⟩
  · intro i o ho here fire notice
    have htable := sweepAndEvaluate_sameTable hconfig hu order hstepped hjumps hx
    refine ⟨?_, fun hquiet hroom hfirst edge hrun hedge hnear hleft hreport => ?_⟩
    · have hchan := (chan_of_chans hchans i).trans (htable.chan i)
      rw [jumpTold_chan _ _ _ ho, run_chan _ _ ho] at hchan
      exact hchan
    · rw [hport, htable.reports.port, jumpTold_quiet hquiet]
      refine mem_announced (changeReports_length ..) (n := 8 + 3 * gone.length) (by rw [State.reportSum]; omega) fun w hw hfree => ?_
      exact cueCut_mem_run (evaluationJump order c (s.evaluationBy order) s) hfree ((chan_of_chans hw i).trans ho) hfirst
        (mem_jumpReports hrun hedge hnear hleft hreport ..)
  · obtain ⟨hkept, hchans'⟩ := sweepAndEvaluate_backward hconfig hu order hstepped hx
    exact ⟨hcues.trans hkept, hchans.trans hchans'⟩

end Sys2Proof.Machine
